-- ==== Sys2Proof/Word.lean ====
section
/-! DEFINITION. The two word types of the block (00_scope.md R10, R15): a nibble and a byte, both unsigned. -/

namespace Sys2Proof

/-- A nibble, 4 bits (R15, R83). -/
abbrev Nibble := BitVec 4

/-- A command, data, character, table or expander byte, 8 bits (R15, R60). -/
abbrev Byte := BitVec 8

/-- A string or a request buffer: finite, delimited by its length (R15, R56). -/
abbrev Bytes := List Byte

end Sys2Proof
end

