-- ==== Sys2Proof/Config.lean ====
section
/-! DEFINITION. The configuration of 00_scope.md R7: what is fixed before the first operation and never changes
while the block runs, and the open values (constants without a body: nothing in Lean can evaluate them). -/

namespace Sys2Proof

/-- `NIBBLE_PLACEMENT` (R7, R121): which end of a nibble goes to which end of expander bits 7:4. -/
inductive Placement where
  /-- the document's word, the spec's default (D1) -/
  | reversed
  /-- the named alternative -/
  | straight
deriving DecidableEq, Repr

/-- The five classes of wait (R238). -/
inductive WaitClass where
  | tEH | tEL | tShort | tLong | tInit
deriving DecidableEq, Repr

/-- The record `CMD` and the two initialisation nibbles (R84 to R90, D4): the values that are not the document's own
and that a model therefore takes as configuration. The flag bits stay where R87 to R89 put them. -/
structure Codes where
  clear       : Byte
  home        : Byte
  entryBase   : Byte
  dispctlBase : Byte
  funcsetBase : Byte
  nibFs8      : Nibble
  nibFs4      : Nibble
deriving DecidableEq, Repr

/-- The Line Addressing Table: `ROWS` = 4 read-only bytes (10_state.md R22, 20_memory.md R54). -/
structure LineTable where
  row0 : Byte
  row1 : Byte
  row2 : Byte
  row3 : Byte
deriving DecidableEq, Repr

/-- The part of R7's configuration that the behaviour of an operation depends on. A claim quantifies over it. -/
structure Config where
  placement : Placement
  lineBase  : LineTable
  backlight : Bool
  font      : Bool
  codes     : Codes
deriving DecidableEq, Repr

namespace Config

/-- `ROWS` (R7). -/
abbrev rows : Nat := 4
/-- `COLS` (R7). -/
def cols : Nat := 20
/-- `RS_BIT` (R7, R81). -/
def rsBit : Nat := 0
/-- `STROBE_BIT` (R7, R81). -/
def strobeBit : Nat := 1
/-- `ZERO_BIT` (R7, R81): written 0 in every byte. -/
def zeroBit : Nat := 2
/-- `BL_BIT` (R7, R81). -/
def blBit : Nat := 3
/-- The low end of the data field 7:4 (R7, R81). -/
def dataLow : Nat := 4
/-- The base-command bit of set DDRAM address, the one command value of the document (R91). -/
def setDdramBit : Byte := 0x80
/-- One byte of the marker (R95). -/
def underscore : Byte := 0x5F
/-- `MARKER` (R7, R95): the ASCII text of three underscores. -/
def marker : Bytes := [underscore, underscore, underscore]
/-- `INVALID_MSG` (R7, R199): the ASCII text Invalid command, 15 bytes. -/
def invalidMsg : Bytes :=
  [0x49, 0x6E, 0x76, 0x61, 0x6C, 0x69, 0x64, 0x20, 0x63, 0x6F, 0x6D, 0x6D, 0x61, 0x6E, 0x64]

/-- PRESUMED (G1, D4, log entry 12): the codes of the HD44780 family. -/
def standardCodes : Codes :=
  { clear := 0x01, home := 0x02, entryBase := 0x04, dispctlBase := 0x08, funcsetBase := 0x20,
    nibFs8 := 0x3, nibFs4 := 0x2 }

/-- PRESUMED (G3, D5, log entry 11): the row bases of a 20×4 module. -/
def standardLines : LineTable := { row0 := 0x00, row1 := 0x40, row2 := 0x14, row3 := 0x54 }

/-- The value column of R7 (decisions D1, D4 to D7; log entries 10 to 13). -/
def standard : Config :=
  { placement := .reversed, lineBase := standardLines, backlight := true, font := false, codes := standardCodes }

/-- Open (D2, D3; log entry 14). -/
opaque openTEH : Nat
/-- Open (D2, D3; log entry 14). -/
opaque openTEL : Nat
/-- Open (D2, D3; log entry 14). -/
opaque openTShort : Nat
/-- Open (D2, D3; log entry 14): how much longer than needed by R239 the long delay is. -/
opaque openTLongExtra : Nat
/-- Open (D2, D3; log entry 14). -/
opaque openTInit : Nat

/-- The least duration of each class of wait. Every value is open; what 60_exceptions.md R239 states of them is built in:
each is positive and `T_LONG > T_SHORT`, and nothing else is known of them. That all instances have the same five times is
the model's choice: the spec does not say (DESIGN CHOICE, log entry 14). -/
def duration : WaitClass → Nat
  | .tEH => openTEH + 1
  | .tEL => openTEL + 1
  | .tShort => openTShort + 1
  | .tLong => openTShort + 1 + openTLongExtra + 1
  | .tInit => openTInit + 1

/-- `BANNER`, the start-up text (R264, R265): open (D19, log entry 15). That all
instances have the same one is the model's choice: the spec does not say (N8; DESIGN CHOICE, log entry 15). -/
opaque banner : Bytes

/-- How an ordinal is written in a name: the digits `NN` of displayNN are open (10_state.md R21, 91_not_in_source.md N10; log
entry 36). -/
opaque ordinalText : Nat → String

/-- Free value (20_memory.md R52, U2, D17; log entry 6): whether the byte of the n-th failed write
behind a bus handle reached the pins. Two handles have nothing in common here; that an instance created anew on a handle
counts again from 0 is the model's choice. -/
opaque failedWriteLands : Nat → Nat → Bool

end Config

end Sys2Proof
end

