-- ==== Sys2Proof/Syntax.lean ====
section
/-! DEFINITION. The instructions: one constructor for each of the 39 rows of spec/opcode_table.json (30_encoding.md R106). -/

namespace Sys2Proof

/-- The rows of the opcode table. The operations of the port (format P) carry no operand: their operands are the port's
named registers (30_encoding.md R99, 10_state.md R26). A request form (format Q) carries the bytes its row leaves open,
`t` being the terminator (R98). -/
inductive Instr where
  -- format P, the operation port (R99, R102)
  | nibble
  | byte
  | init
  | clear
  | home
  | gotoxy
  | entrymode
  | dispctl
  | putchar
  | putstr
  | request
  | reservedB
  | reservedC
  | reservedD
  | reservedE
  | reservedF
  -- format Q, request forms (R94 to R98)
  | reqClear (t : Byte)
  | reqGotoRow1 (t : Byte)
  | reqGotoRow2 (t : Byte)
  | reqGotoRow3 (t : Byte)
  | reqGotoRow4 (t : Byte)
  | reqInvalid5 (t : Byte)
  | reqInvalid6 (t : Byte)
  | reqInvalid7 (t : Byte)
  | reqInvalid8 (t : Byte)
  | reqInvalid9 (t : Byte)
  /-- a literal text and its terminator (R194) -/
  | reqText (text : Bytes) (t : Byte)
  /-- what follows the marker, not exactly one digit, and the terminator (R196) -/
  | reqMalformed (tail : Bytes) (t : Byte)
  | reqEmpty
  -- format C, command bytes (R84 to R91)
  | cmdClear
  | cmdHome
  | cmdEntry (id sh : Bool)
  | cmdDispctl (on cur blk : Bool)
  | cmdFuncset (dl n f : Bool)
  | cmdSetddram (a : BitVec 7)
  -- format N, the two initialisation nibbles (R90)
  | nibFs8
  | nibFs4
  -- format D, data bytes (R93)
  | data (c : Byte)
  /-- format X, the expander byte (R81): the placed nibble, backlight, strobe, register-select -/
  | xbyte (d : Nibble) (bl e rs : Bool)
deriving DecidableEq, Repr

end Sys2Proof
end

