-- ==== Sys2Proof/WellFormed.lean ====
section
/-! DEFINITION. Well-formed instructions: what the types of Syntax.lean do not already say. Every width is exact in the
types (00_scope.md R15); only the two open request forms carry a condition. -/

namespace Sys2Proof

/-- A text begins with the marker when its first three bytes are the marker's (30_encoding.md R95). -/
def beginsWithMarker : Bytes → Bool
  | a :: b :: c :: _ => a == Config.underscore && b == Config.underscore && c == Config.underscore
  | _ => false

/-- An ASCII decimal digit (R96). -/
def isDigit (k : Byte) : Bool := decide (0x30 ≤ k.toNat) && decide (k.toNat ≤ 0x39)

/-- What follows the marker parses as a selector: exactly one decimal digit (R96, D12). -/
def isSelector : Bytes → Bool
  | [k] => isDigit k
  | _ => false

/-- Check of one instruction: a literal text does not begin with the marker (R94), a malformed tail is no selector (R196). -/
def Instr.wellFormed : Instr → Bool
  | .reqText text _ => !beginsWithMarker text
  | .reqMalformed tail _ => !isSelector tail
  | .nibble | .byte | .init | .clear | .home | .gotoxy | .entrymode | .dispctl | .putchar | .putstr | .request => true
  | .reservedB | .reservedC | .reservedD | .reservedE | .reservedF => true
  | .reqClear _ | .reqGotoRow1 _ | .reqGotoRow2 _ | .reqGotoRow3 _ | .reqGotoRow4 _ => true
  | .reqInvalid5 _ | .reqInvalid6 _ | .reqInvalid7 _ | .reqInvalid8 _ | .reqInvalid9 _ => true
  | .reqEmpty => true
  | .cmdClear | .cmdHome | .cmdEntry _ _ | .cmdDispctl _ _ _ | .cmdFuncset _ _ _ | .cmdSetddram _ => true
  | .nibFs8 | .nibFs4 | .data _ | .xbyte _ _ _ _ => true

end Sys2Proof
end

