-- ==== Sys2Proof/Decode.lean ====
section
/-! DEFINITION. Decoding and encoding, format by format (30_encoding.md R80): total on any bytes, rejecting by name; the
encoder after it, written from the same rules. A word of 4 bits (formats P and N) stands in the low half of one byte. -/

namespace Sys2Proof

/-- The six formats (R80). -/
inductive Format where
  | P | N | C | D | Q | X
deriving DecidableEq, Repr

/-- Why some bytes are no instruction of a format. -/
inductive Reject where
  /-- a format of one word was given no word, or more than one (R80) -/
  | wrongLength
  /-- format P: more than 4 bits (R15, R99) -/
  | notASelector
  /-- format N: neither of the two rows of R90 -/
  | notAnInitNibble
  /-- format C: the cursor-or-display-shift class, never produced (R92) -/
  | shiftClass
  /-- format C: the set-CGRAM-address class, never produced (R92, R6) -/
  | cgramClass
  /-- format C: a byte whose fixed zero bits are not zero (R86, R89), or the byte 0x00, which is in no class (R84) -/
  | unusedCommand
  /-- format X: bit 2 set, which the block cannot write (R81, R102) -/
  | zeroBitSet
deriving DecidableEq, Repr

/-! ## Decoding -/

/-- Format P: the operation selector (R99, R102). -/
def decodeP (w : Byte) : Except Reject Instr :=
  match w.toNat with
  | 0x0 => .ok .nibble
  | 0x1 => .ok .byte
  | 0x2 => .ok .init
  | 0x3 => .ok .clear
  | 0x4 => .ok .home
  | 0x5 => .ok .gotoxy
  | 0x6 => .ok .entrymode
  | 0x7 => .ok .dispctl
  | 0x8 => .ok .putchar
  | 0x9 => .ok .putstr
  | 0xA => .ok .request
  | 0xB => .ok .reservedB
  | 0xC => .ok .reservedC
  | 0xD => .ok .reservedD
  | 0xE => .ok .reservedE
  | 0xF => .ok .reservedF
  | _ => .error .notASelector

/-- Format N: the two initialisation nibbles (R90). -/
def decodeN (w : Byte) : Except Reject Instr :=
  match w.toNat with
  | 0x3 => .ok .nibFs8
  | 0x2 => .ok .nibFs4
  | _ => .error .notAnInitNibble

/-- Format C: the class of a command byte is decided by its highest set bit (R84); the fields are those of R85 to R91. -/
def decodeC (w : Byte) : Except Reject Instr :=
  if w.getLsbD 7 then .ok (.cmdSetddram (w.extractLsb' 0 7))
  else if w.getLsbD 6 then .error .cgramClass
  else if w.getLsbD 5 then
    if w.getLsbD 1 || w.getLsbD 0 then .error .unusedCommand
    else .ok (.cmdFuncset (w.getLsbD 4) (w.getLsbD 3) (w.getLsbD 2))
  else if w.getLsbD 4 then .error .shiftClass
  else if w.getLsbD 3 then .ok (.cmdDispctl (w.getLsbD 2) (w.getLsbD 1) (w.getLsbD 0))
  else if w.getLsbD 2 then .ok (.cmdEntry (w.getLsbD 1) (w.getLsbD 0))
  else if w.getLsbD 1 then
    if w.getLsbD 0 then .error .unusedCommand else .ok .cmdHome
  else if w.getLsbD 0 then .ok .cmdClear
  else .error .unusedCommand

/-- Format D: every byte is a data byte (R93). -/
def decodeD (w : Byte) : Except Reject Instr := .ok (.data w)

/-- Format X: bits 7:4 the placed nibble, 3 backlight, 2 zero, 1 strobe, 0 register-select (R81). -/
def decodeX (w : Byte) : Except Reject Instr :=
  if w.getLsbD 2 then .error .zeroBitSet
  else .ok (.xbyte (w.extractLsb' 4 4) (w.getLsbD 3) (w.getLsbD 1) (w.getLsbD 0))

/-- The form a control token has, from what follows the marker (R96, R97). -/
def decodeToken (tail : Bytes) (t : Byte) : Instr :=
  match tail with
  | [k] =>
    match k.toNat with
    | 0x30 => .reqClear t
    | 0x31 => .reqGotoRow1 t
    | 0x32 => .reqGotoRow2 t
    | 0x33 => .reqGotoRow3 t
    | 0x34 => .reqGotoRow4 t
    | 0x35 => .reqInvalid5 t
    | 0x36 => .reqInvalid6 t
    | 0x37 => .reqInvalid7 t
    | 0x38 => .reqInvalid8 t
    | 0x39 => .reqInvalid9 t
    | _ => .reqMalformed tail t
  | _ => .reqMalformed tail t

/-- Format Q: strip the last byte, whatever it is (R98, R192), test the marker (R193), parse the selector (R195).
Every request has exactly one form. -/
def decodeRequest (rb : Bytes) : Instr :=
  match rb.getLast? with
  | none => .reqEmpty
  | some t =>
    let text := rb.dropLast
    if beginsWithMarker text then decodeToken (text.drop 3) t else .reqText text t

/-- The decoder: what `bytes` stand for at a place where `f` is the format. Total; a rejection has a name. -/
def decode (f : Format) (bytes : Bytes) : Except Reject Instr :=
  match f, bytes with
  | .Q, rb => .ok (decodeRequest rb)
  | .P, [w] => decodeP w
  | .N, [w] => decodeN w
  | .C, [w] => decodeC w
  | .D, [w] => decodeD w
  | .X, [w] => decodeX w
  | _, _ => .error .wrongLength

/-! ## Encoding -/

/-- A one-bit field as a byte with the bit at place `k`. -/
def bitAt (b : Bool) (k : Nat) : Byte := if b then 1#8 <<< k else 0#8

/-- The format of an instruction's row (column format of spec/opcode_table.json). -/
def Instr.format : Instr → Format
  | .nibble | .byte | .init | .clear | .home | .gotoxy | .entrymode | .dispctl | .putchar | .putstr | .request => .P
  | .reservedB | .reservedC | .reservedD | .reservedE | .reservedF => .P
  | .reqClear _ | .reqGotoRow1 _ | .reqGotoRow2 _ | .reqGotoRow3 _ | .reqGotoRow4 _ => .Q
  | .reqInvalid5 _ | .reqInvalid6 _ | .reqInvalid7 _ | .reqInvalid8 _ | .reqInvalid9 _ => .Q
  | .reqText _ _ | .reqMalformed _ _ | .reqEmpty => .Q
  | .cmdClear | .cmdHome | .cmdEntry _ _ | .cmdDispctl _ _ _ | .cmdFuncset _ _ _ | .cmdSetddram _ => .C
  | .nibFs8 | .nibFs4 => .N
  | .data _ => .D
  | .xbyte _ _ _ _ => .X

/-- The bytes of an instruction in its format: a selector (R99), the bytes of a request (R94, R97), a command byte
(R85 to R91 with the values of R84), an initialisation nibble (R90), a data byte (R93), an expander byte (R81). -/
def encode : Instr → Bytes
  | .nibble => [0x0]
  | .byte => [0x1]
  | .init => [0x2]
  | .clear => [0x3]
  | .home => [0x4]
  | .gotoxy => [0x5]
  | .entrymode => [0x6]
  | .dispctl => [0x7]
  | .putchar => [0x8]
  | .putstr => [0x9]
  | .request => [0xA]
  | .reservedB => [0xB]
  | .reservedC => [0xC]
  | .reservedD => [0xD]
  | .reservedE => [0xE]
  | .reservedF => [0xF]
  | .reqClear t => Config.marker ++ [0x30, t]
  | .reqGotoRow1 t => Config.marker ++ [0x31, t]
  | .reqGotoRow2 t => Config.marker ++ [0x32, t]
  | .reqGotoRow3 t => Config.marker ++ [0x33, t]
  | .reqGotoRow4 t => Config.marker ++ [0x34, t]
  | .reqInvalid5 t => Config.marker ++ [0x35, t]
  | .reqInvalid6 t => Config.marker ++ [0x36, t]
  | .reqInvalid7 t => Config.marker ++ [0x37, t]
  | .reqInvalid8 t => Config.marker ++ [0x38, t]
  | .reqInvalid9 t => Config.marker ++ [0x39, t]
  | .reqText text t => text ++ [t]
  | .reqMalformed tail t => Config.marker ++ tail ++ [t]
  | .reqEmpty => []
  | .cmdClear => [0x01]
  | .cmdHome => [0x02]
  | .cmdEntry id sh => [0x04 ||| bitAt id 1 ||| bitAt sh 0]
  | .cmdDispctl on cur blk => [0x08 ||| bitAt on 2 ||| bitAt cur 1 ||| bitAt blk 0]
  | .cmdFuncset dl n f => [0x20 ||| bitAt dl 4 ||| bitAt n 3 ||| bitAt f 2]
  | .cmdSetddram a => [0x80 ||| a.setWidth 8]
  | .nibFs8 => [0x3]
  | .nibFs4 => [0x2]
  | .data c => [c]
  | .xbyte d bl e rs => [d.setWidth 8 <<< 4 ||| bitAt bl 3 ||| bitAt e 1 ||| bitAt rs 0]

/-! ## The opcode table's words -/

/-- `k` bytes of the number `w`, the first one the most significant, as the notes of spec/opcode_table.json number the
bytes of a request (log entry 24). -/
def bytesOfNat : Nat → Nat → Bytes
  | 0, _ => []
  | k + 1, w => BitVec.ofNat 8 (w >>> (8 * k)) :: bytesOfNat k w

/-- The place a bare table word of one byte is taken to stand at. The rows of formats P, N, C, D and X share their words and
a bare word does not carry its format: the first format in the table's order that has a row for it (log entry 24). -/
def formatOfWord (w : Byte) : Format :=
  match decodeP w, decodeC w with
  | .ok _, _ => .P
  | .error _, .ok _ => .C
  | .error _, .error _ => .D

/-- The format and the bytes of a table word of `nbits` bits. One byte: as `formatOfWord`. Otherwise a request; the row
REQ.MALFORMED gives its first three bytes only, and the terminator, which it gives no bits, is zero. -/
def tableWord (nbits w : Nat) : Format × Bytes :=
  if nbits ≠ 0 ∧ nbits ≤ 8 then (formatOfWord (BitVec.ofNat 8 w), [BitVec.ofNat 8 w])
  else if nbits = 24 then (.Q, bytesOfNat 3 w ++ [0x00])
  else (.Q, bytesOfNat (nbits / 8) w)

/-- The instruction the decoder reads from a table word. -/
def decodeTableWord (nbits w : Nat) : Option Instr :=
  match decode (tableWord nbits w).1 (tableWord nbits w).2 with
  | .ok i => some i
  | .error _ => none

end Sys2Proof
end

