-- ==== Sys2Proof/Machine/State.lean ====
section
/-! DEFINITION. The state of the machine as plain data, and its value right after reset (10_state.md). The state record of
the block is `Block`; what 10_state.md R36 calls parameters of a run (configuration, the operation and its operands as
presented by the host, the answers of the bus) is another record, `Run`. `State` puts the two side by side, because the
host's interface gives a step one argument (log entry 2). -/

namespace Sys2Proof.Machine

/-- The values of STATUS (R28; the names of 60_exceptions.md R221). -/
inductive Status where
  | ok | busError | addressOutOfRange | malformedControlToken
deriving DecidableEq, Repr

/-- ProtocolByte `PB` (R23). -/
structure ProtocolByte where
  value : Byte
  rs    : Bool
  bl    : Bool
deriving DecidableEq, Repr

/-- `CT.kind` (R24). -/
inductive TokenKind where
  | clear | gotoRow | invalid
deriving DecidableEq, Repr

/-- ControlToken `CT` (R24): `n` is the selector value, 0 to 9. -/
structure ControlToken where
  kind : TokenKind
  n    : Nat
deriving DecidableEq, Repr

/-- One event of the trace (00_scope.md R9). -/
inductive Event where
  /-- `W(v)`: a register write the bus answered with success -/
  | w (v : Byte)
  /-- `W!(v)`: a register write the bus answered with `BusError` -/
  | wErr (v : Byte)
  /-- `D(T)`: a wait of class `T` -/
  | d (t : WaitClass)
deriving DecidableEq, Repr

/-- How the bus answers a register write (20_memory.md R52). "No answer" comes in two forms, so that a transport with its
own bound can be written down (log entry 3). -/
inductive BusAnswer where
  /-- the byte is on the pins -/
  | ok
  /-- the transport reports `BusError` -/
  | err
  /-- no answer yet: the answer after this one in the list is to the same write -/
  | late
  /-- no answer ever -/
  | never
deriving DecidableEq, Repr

/-- The operand registers of the operation port (R26). -/
structure Operands where
  v   : Nibble
  b   : Byte
  rs  : Bool
  bl  : Bool
  col : Byte
  row : Byte
  on  : Bool
  cur : Bool
  blk : Bool
  id  : Bool
  sh  : Bool
  s   : Bytes
  rb  : Bytes
deriving DecidableEq, Repr

/-- One thing the host starts: a word at the place whose format is `fmt` (format P the operation port, format Q the request
port), with the operands it presents; `waits` says that it keeps its duty of R66 and starts only when BUSY is 0. -/
structure Start where
  fmt      : Format
  word     : Bytes
  operands : Operands
  waits    : Bool
deriving DecidableEq, Repr

/-- The reference `LAT` (R21, R22): all displays of the model share the one table. -/
inductive TableRef where
  | shared
deriving DecidableEq, Repr

/-- `NAME` (R21): which text it is, told by what the text is derived from, since how that is written is not stated
(91_not_in_source.md N10; log entry 36). -/
inductive Name where
  /-- the host has given no ordinal: the reset value (log entry 5) -/
  | unnamed
  /-- the text displayNN of an instance ordinal -/
  | display (ordinal : Nat)
deriving DecidableEq, Repr

/-- The instance record DisplayDevice (R21); the handle of its bus is opaque. -/
structure Device where
  name : Name
  bus  : Nat
  lat  : TableRef
deriving DecidableEq, Repr

/-- The parameters of a run (R36): not the block's state. -/
structure Run where
  cfg      : Config
  /-- `OPSEL` as an enumeration (R26, R99; log entry 23) -/
  opsel    : Instr
  operands : Operands
  /-- what the host will start, in order (R8) -/
  host     : List Start
  /-- the answers to the writes to come; an answer that is not listed is `ok` (log entry 3) -/
  bus      : List BusAnswer
deriving DecidableEq, Repr

/-- The state record of the block (R20, R36): the registers of one instance and its expander's, and no parameter of a
run. -/
structure Block where
  /-- `BUSY` (R27) -/
  busy     : Bool
  /-- `STEP` (R27): the index of the next event of the operation's canonical trace -/
  stepNo   : Nat
  /-- `IDX` (R27): the index of the character being sent -/
  idx      : Nat
  /-- `PB` (R23): exists only while a byte is transmitted -/
  pb       : Option ProtocolByte
  /-- `CT` (R24): exists only while a request with a control token runs -/
  ct       : Option ControlToken
  /-- `STATUS` (R28) -/
  status   : Status
  /-- `CONSUMED` (R28) -/
  consumed : Nat
  /-- `XREG`, the expander's register (R29) -/
  xreg     : Byte
  /-- the instance's identity (R21) -/
  device   : Device
deriving DecidableEq, Repr

/-- The machine of one instance: the block's state, and beside it the parameters of the run and the observable. -/
structure State extends Block where
  run      : Run
  /-- the trace of the operation in progress or last ended (00_scope.md R9; log entry 27) -/
  trace    : List Event
  /-- the traces of the operations before it, concatenated (20_memory.md R63; log entry 27) -/
  past     : List Event
  /-- the MODEL's own: which free value comes next (log entry 6) -/
  free     : Nat
deriving DecidableEq, Repr

/-- Why the machine stops. The errors of 60_exceptions.md R221 are not here: they are results, after which it goes on. -/
inductive Fault where
  /-- Raised by a step in a state with BUSY = 1 in which no operation is in flight (OPSEL and the operands have no
  canonical trace, or STEP is not a register write of it): no run reaches one. Safe (log entry 29). -/
  | noOperationInFlight
deriving DecidableEq, Repr

/-- Why there is no meaning. -/
inductive Refusal where
  /-- Raised by `exec` for an instruction that has no meaning yet: no arm does. Safe. -/
  | notModelled (mnemonic : String)
  /-- Raised by the meanings of the five reserved selectors (30_encoding.md R102, U12). Safe. -/
  | reservedSelector (opsel : Nat)
  /-- Raised by every meaning when BUSY is 1: a second start on the same instance (20_memory.md R66, U4, D23). Safe. -/
  | startWhileBusy
  /-- Raised by a step whose start holds a word that is no row of its format (00_scope.md R15, 30_encoding.md R92). Safe. -/
  | noSuchWord (why : Reject)
deriving DecidableEq, Repr

/-- Every operand register at zero, both strings empty: the port when the host presents nothing, before a start and after an
operation has ended (R26, R35; that it reads zero is a DESIGN CHOICE, log entry 4). -/
def Operands.zero : Operands :=
  { v := 0, b := 0, rs := false, bl := false, col := 0, row := 0, on := false, cur := false, blk := false, id := false,
    sh := false, s := [], rb := [] }

/-- OPSEL when the host presents nothing (R26, R35; DESIGN CHOICE, log entry 4). -/
def idleOpsel : Instr := .nibble

/-- The operation has ended and the port presents nothing: no operand keeps its value, and the request is discarded (R25,
R26, 20_memory.md R56). -/
def Run.release (r : Run) : Run := { r with opsel := idleOpsel, operands := Operands.zero }

/-- The state right after reset, the creation of the instance (R35, 70_reset_and_hazards.md R260): idle, no event, no
program. STATUS, CONSUMED, XREG, the identity and the port are DESIGN CHOICE (log entries 4 and 5). -/
def State.reset : State :=
  { busy := false, stepNo := 0, idx := 0, pb := none, ct := none, status := .ok, consumed := 0, xreg := 0,
    device := { name := .unnamed, bus := 0, lat := .shared },
    run := { cfg := Config.standard, opsel := idleOpsel, operands := Operands.zero, host := [], bus := [] },
    trace := [], past := [], free := 0 }

end Sys2Proof.Machine
end

