-- ==== Sys2Proof/Machine/Flags.lean ====
section
/-! DEFINITION. The result of an operation (10_state.md R28): the block has no condition codes, and STATUS and CONSUMED are
the only things an operation reports. Their numbers (60_exceptions.md R226) are for reference only. -/

namespace Sys2Proof.Machine

/-- The number of each value of STATUS (60_exceptions.md R226, D14). No operation reads it. -/
def Status.number : Status → Nat
  | .ok => 0
  | .busError => 1
  | .addressOutOfRange => 2
  | .malformedControlToken => 3

/-- CONSUMED after a success: an operation that reports a count (REQUEST, 43_dispatcher.md R200) writes it, any other
leaves it (10_state.md R28). -/
def consumedAfter (count : Option Nat) (old : Nat) : Nat := count.getD old

/-- The operation's result is delivered: STATUS is written and BUSY falls (10_state.md R28). STEP and IDX are discarded
(60_exceptions.md R230; 0 while idle, log entry 5), PB and CT cease to exist (R23, R24), and what the port presented is
gone (R25, R26). -/
def State.deliver (r : Status) (s : State) : State :=
  { s with status := r, busy := false, stepNo := 0, idx := 0, pb := none, ct := none, run := s.run.release }

end Sys2Proof.Machine
end

