-- ==== Sys2Proof/Machine/Operands.lean ====
section
/-! DEFINITION. Operand assembly (30_encoding.md R100) and arithmetic (R101): how each value that goes out is made. All
quantities are unsigned; nothing is sign-extended or scaled. -/

namespace Sys2Proof.Machine

/-- The high nibble of a byte, bits 7:4 (R100). -/
def hiNibble (b : Byte) : Nibble := b.extractLsb' 4 4

/-- The low nibble of a byte, bits 3:0 (R100). -/
def loNibble (b : Byte) : Nibble := b.extractLsb' 0 4

/-- `rev4` (00_scope.md R10): bit `i` of the result is bit `3 - i` of `v`. -/
def rev4 (v : Nibble) : Nibble :=
  v.extractLsb' 0 1 ++ v.extractLsb' 1 1 ++ v.extractLsb' 2 1 ++ v.extractLsb' 3 1

/-- `PLACE` (40_nibble_encoder.md R121). -/
def place (p : Placement) (v : Nibble) : Nibble :=
  match p with
  | .reversed => rev4 v
  | .straight => v

/-- The byte with the placed nibble in bits 7:4 and the three flags at their places, bit 2 zero (R81). -/
def assembleX (d : Nibble) (bl e rs : Bool) : Byte :=
  d.setWidth 8 <<< Config.dataLow ||| bitAt bl Config.blBit ||| bitAt e Config.strobeBit ||| bitAt rs Config.rsBit

/-- The expander byte of a nibble (R81, R100): `e` is the strobe level. -/
def expanderByte (cfg : Config) (v : Nibble) (rs bl e : Bool) : Byte := assembleX (place cfg.placement v) bl e rs

/-- `CMD_ENTRY(id, sh)` (R87). -/
def cmdEntry (cfg : Config) (id sh : Bool) : Byte := cfg.codes.entryBase ||| bitAt id 1 ||| bitAt sh 0

/-- `CMD_DISPCTL(on, cur, blk)` (R88). -/
def cmdDispctl (cfg : Config) (on cur blk : Bool) : Byte :=
  cfg.codes.dispctlBase ||| bitAt on 2 ||| bitAt cur 1 ||| bitAt blk 0

/-- `CMD_FUNCSET(dl, n, f)` (R89). -/
def cmdFuncset (cfg : Config) (dl n f : Bool) : Byte := cfg.codes.funcsetBase ||| bitAt dl 4 ||| bitAt n 3 ||| bitAt f 2

/-- `CMD_SETDDRAM(a)` (R91): the or is applied to the 8-bit value (R101). -/
def cmdSetddram (a : Byte) : Byte := Config.setDdramBit ||| a

/-- Entry `row` of the Line Addressing Table (20_memory.md R54); the index is in range by its type. -/
def lineBase (t : LineTable) (row : Fin Config.rows) : Byte :=
  match row.val with
  | 0 => t.row0
  | 1 => t.row1
  | 2 => t.row2
  | _ => t.row3

/-- The DDRAM address `LINE_BASE[row] +8 col` (R100, R101): addition modulo 256. -/
def ddramAddress (cfg : Config) (row : Fin Config.rows) (col : Byte) : Byte := lineBase cfg.lineBase row + col

end Sys2Proof.Machine
end

