-- ==== Sys2Proof/Machine/Ops.lean ====
section
/-! DEFINITION. The shared operations: the spaces (10_state.md R34), the two primitives `BusWrite` and `Wait` (00_scope.md
R11, R12), the pieces of a canonical trace, raising an error (R13, 60_exceptions.md R230), and running an operation. -/

namespace Sys2Proof.Machine

/-! ## The spaces -/

/-- The spaces of the block (10_state.md R34). -/
inductive Space where
  | xreg | lat | req | str
deriving DecidableEq, Repr

/-- The table the instance's reference LAT leads to: the one shared table (10_state.md R21, R22). -/
def State.lineTable (s : State) : LineTable :=
  match s.device.lat with
  | .shared => s.run.cfg.lineBase

/-- `MemRead(space + i, 1)` (00_scope.md R14, 20_memory.md R54, R56): no byte outside the space, and none of XREG, which is
write-only (R6, R53). -/
def memRead (sp : Space) (i : Nat) (s : State) : Option Byte :=
  match sp with
  | .xreg => none
  | .lat => if h : i < Config.rows then some (lineBase s.lineTable ⟨i, h⟩) else none
  | .req => s.run.operands.rb[i]?
  | .str => s.run.operands.s[i]?

/-! ## Canonical traces -/

/-- One step of an operation: a register write or a wait, the only primitives (30_encoding.md R105). -/
inductive Act where
  | write (v : Byte)
  | wait (t : WaitClass)
deriving DecidableEq, Repr

/-- One step with what PB and IDX hold while it is performed (10_state.md R23, R27). -/
structure Slot where
  act : Act
  pb  : Option ProtocolByte
  idx : Nat
deriving DecidableEq, Repr

/-- The event a step leaves when it succeeds (00_scope.md R11, R12). -/
def Act.event : Act → Event
  | .write v => .w v
  | .wait t => .d t

/-- An operation, expanded (30_encoding.md R105): the token it parsed, the count it reports on success, and either the error
its checks raise, before any write, or its steps in order. -/
structure Job where
  ct    : Option ControlToken
  count : Option Nat
  body  : Except Status (List Slot)

/-- An operation that sends something and reports no count. -/
def Job.plain (p : List Slot) : Job := { ct := none, count := none, body := .ok p }

/-- An operation whose check fails (60_exceptions.md R229: checks come first). -/
def Job.rejected (e : Status) : Job := { ct := none, count := none, body := .error e }

/-! ## The primitives -/

/-- What the bus answers to the next write (20_memory.md R52; unlisted: `ok`, log entry 3). -/
def State.answer (s : State) : BusAnswer := s.run.bus.headD .ok

/-- The answer has been used. -/
def State.dropAnswer (s : State) : State := { s with run := { s.run with bus := s.run.bus.tail } }

/-- The sequencer is at a step: PB and IDX as the step has them. -/
def State.enter (k : Slot) (s : State) : State := { s with pb := k.pb, idx := k.idx }

/-- An event is appended to the trace and STEP advances by one (10_state.md R27). -/
def State.emit (e : Event) (s : State) : State := { s with trace := s.trace ++ [e], stepNo := s.stepNo + 1 }

/-- `BusWrite(v)` answered `ok`: all eight pins change together (10_state.md R29, 20_memory.md R51), `W(v)` is appended. -/
def busWriteOk (v : Byte) (s : State) : State := ({ s with xreg := v } : State).dropAnswer.emit (.w v)

/-- `BusWrite(v)` answered `err`: `W!(v)` is appended; XREG holds its previous value or `v`, a free value out of the two
(20_memory.md R52, D17), taken by bus handle and count (DESIGN CHOICE, log entry 6). -/
def busWriteErr (v : Byte) (s : State) : State :=
  ({ s with xreg := if Config.failedWriteLands s.device.bus s.free then v else s.xreg, free := s.free + 1 } : State).dropAnswer.emit
    (.wErr v)

/-- `Wait(T)`: always completes, `D(T)` is appended, nothing else happens (00_scope.md R12). -/
def wait (t : WaitClass) (s : State) : State := s.emit (.d t)

/-! ## Raising an error, and ending without one -/

/-- `raise E` (00_scope.md R13, 60_exceptions.md R220, R230): the operation and every operation that called it end, no further
event; STATUS is E, BUSY falls; CONSUMED is not written (43_dispatcher.md R200); nothing is saved, there is no handler and
no return from one (R233), nothing is rolled back (R232). -/
def raiseError (e : Status) (s : State) : State := s.deliver e

/-- `return Ok` from the outermost operation (00_scope.md R13), with its count if it reports one. -/
def finishOk (count : Option Nat) (s : State) : State :=
  ({ s with consumed := consumedAfter count s.consumed } : State).deliver .ok

/-! ## Running an operation -/

/-- The steps of an operation, in order, each complete before the next starts (20_memory.md R63): to the end, or to the first
write the bus refuses (60_exceptions.md R222), or to a write it does not answer, which leaves the operation in flight at
that write (R246). -/
def drive (count : Option Nat) : List Slot → State → State
  | [], s => finishOk count s
  | k :: ks, s =>
    match k.act with
    | .wait t => drive count ks (wait t (s.enter k))
    | .write v =>
      match s.answer with
      | .ok => drive count ks (busWriteOk v (s.enter k))
      | .err => raiseError .busError (busWriteErr v (s.enter k))
      | .late => (s.enter k).dropAnswer
      | .never => s.enter k

/-- The start of operation `i` (10_state.md R27): BUSY is 1, STEP and IDX are 0, OPSEL presents `i`, its trace is empty. -/
def State.begin (i : Instr) (ct : Option ControlToken) (s : State) : State :=
  { s with busy := true, stepNo := 0, idx := 0, pb := none, ct := ct, run := { s.run with opsel := i },
           past := s.past ++ s.trace, trace := [] }

/-- Operation `i`, from its start to its result or to a write that is not answered. A second start on a busy instance has no
meaning (20_memory.md R66, D23). -/
def startJob (i : Instr) (j : Job) (s : State) : Host.Outcome State Fault Refusal :=
  if s.busy then .refused .startWhileBusy
  else
    match j.body with
    | .error e => .next (raiseError e (s.begin i j.ct))
    | .ok p => .next (drive j.count p (s.begin i j.ct))

/-- The operation in flight goes on at STEP: the write there is still unanswered, and the bus may answer now
(60_exceptions.md R246: "or until the external transport's own bound"). -/
def resumeJob (j : Job) (s : State) : Host.Outcome State Fault Refusal :=
  match j.body with
  | .error _ => .fault .noOperationInFlight
  | .ok p =>
    match p.drop s.stepNo with
    | ⟨.write v, pb, idx⟩ :: ks => .next (drive j.count (⟨.write v, pb, idx⟩ :: ks) s)
    | _ => .fault .noOperationInFlight

end Sys2Proof.Machine
end

