-- ==== Sys2Proof/Machine/Nibble.lean ====
section
/-! DEFINITION. The Nibble Encoder (40_nibble_encoder.md): operation NIBBLE. -/

namespace Sys2Proof.Machine

/-- NIBBLE(v, rs, bl) (R120): strobe-high write, wait `T_EH`, strobe-low write, wait `T_EL`. `pb` and `idx` are what the
caller's registers hold meanwhile. -/
def nibbleSlots (cfg : Config) (pb : Option ProtocolByte) (idx : Nat) (v : Nibble) (rs bl : Bool) : List Slot :=
  [⟨.write (expanderByte cfg v rs bl true), pb, idx⟩, ⟨.wait .tEH, pb, idx⟩,
   ⟨.write (expanderByte cfg v rs bl false), pb, idx⟩, ⟨.wait .tEL, pb, idx⟩]

/-- NIBBLE with the port's operands `V`, `RS`, `BL` (R120, 30_encoding.md R99). -/
def jobNibble (r : Run) : Job := .plain (nibbleSlots r.cfg none 0 r.operands.v r.operands.rs r.operands.bl)

/-- NIBBLE (R120 to R129). -/
def execNibble (s : State) : Host.Outcome State Fault Refusal := startJob .nibble (jobNibble s.run) s

end Sys2Proof.Machine
end

