-- ==== Sys2Proof/Machine/ByteLayer.lean ====
section
/-! DEFINITION. The Byte Protocol Layer (41_byte_protocol.md): operation BYTE. -/

namespace Sys2Proof.Machine

/-- A transmission of the ProtocolByte `pb` (R140, 10_state.md R23): high nibble first (R141), both nibbles with the flags of
the byte (R142), no wait of its own (R144). -/
def transmitSlots (cfg : Config) (idx : Nat) (pb : ProtocolByte) : List Slot :=
  nibbleSlots cfg (some pb) idx (hiNibble pb.value) pb.rs pb.bl ++
    nibbleSlots cfg (some pb) idx (loNibble pb.value) pb.rs pb.bl

/-- BYTE(b, rs, bl) (R140). -/
def byteSlots (cfg : Config) (idx : Nat) (b : Byte) (rs bl : Bool) : List Slot :=
  transmitSlots cfg idx { value := b, rs := rs, bl := bl }

/-- BYTE with the port's operands `B`, `RS`, `BL` (R140, 30_encoding.md R99). -/
def jobByte (r : Run) : Job := .plain (byteSlots r.cfg 0 r.operands.b r.operands.rs r.operands.bl)

/-- BYTE (R140 to R144). -/
def execByte (s : State) : Host.Outcome State Fault Refusal := startJob .byte (jobByte s.run) s

end Sys2Proof.Machine
end

