-- ==== Sys2Proof/Machine/Command.lean ====
section
/-! DEFINITION. The Command Layer (42_command_layer.md): INIT, CLEAR, HOME, GOTOXY, ENTRYMODE, DISPCTL, PUTCHAR, PUTSTR. -/

namespace Sys2Proof.Machine

/-! ## The common steps -/

/-- SEND(b, rs, T) (R150): the byte with the backlight flag `BACKLIGHT`, then the post-write delay. -/
def sendSlots (cfg : Config) (idx : Nat) (b : Byte) (rs : Bool) (t : WaitClass) : List Slot :=
  byteSlots cfg idx b rs cfg.backlight ++ [⟨.wait t, none, idx⟩]

/-- A single nibble pulse of INIT with its delay (R152, steps 1 to 4): a command (`rs` = 0). -/
def pulseSlots (cfg : Config) (v : Nibble) (t : WaitClass) : List Slot :=
  nibbleSlots cfg none 0 v false cfg.backlight ++ [⟨.wait t, none, 0⟩]

/-- INIT() (R152): the nine steps in order. -/
def initSlots (cfg : Config) : List Slot :=
  pulseSlots cfg cfg.codes.nibFs8 .tInit ++
  pulseSlots cfg cfg.codes.nibFs8 .tInit ++
  pulseSlots cfg cfg.codes.nibFs8 .tInit ++
  pulseSlots cfg cfg.codes.nibFs4 .tShort ++
  sendSlots cfg 0 (cmdFuncset cfg false true cfg.font) false .tShort ++
  sendSlots cfg 0 (cmdDispctl cfg false false false) false .tShort ++
  sendSlots cfg 0 cfg.codes.clear false .tLong ++
  sendSlots cfg 0 (cmdEntry cfg true false) false .tShort ++
  sendSlots cfg 0 (cmdDispctl cfg true true true) false .tShort

/-- CLEAR() (R155). -/
def clearSlots (cfg : Config) : List Slot := sendSlots cfg 0 cfg.codes.clear false .tLong

/-- HOME() (R156). -/
def homeSlots (cfg : Config) : List Slot := sendSlots cfg 0 cfg.codes.home false .tLong

/-- GOTOXY(col, row) (R157): the row check comes before the table read and before any write (R159); the column is not
checked (R160). -/
def gotoxyBody (cfg : Config) (col row : Byte) : Except Status (List Slot) :=
  if h : row.toNat < Config.rows then
    .ok (sendSlots cfg 0 (cmdSetddram (ddramAddress cfg ⟨row.toNat, h⟩ col)) false .tShort)
  else .error .addressOutOfRange

/-- ENTRYMODE(id, sh) (R161). -/
def entrymodeSlots (cfg : Config) (id sh : Bool) : List Slot := sendSlots cfg 0 (cmdEntry cfg id sh) false .tShort

/-- DISPCTL(on, cur, blk) (R162). -/
def dispctlSlots (cfg : Config) (on cur blk : Bool) : List Slot :=
  sendSlots cfg 0 (cmdDispctl cfg on cur blk) false .tShort

/-- PUTCHAR(c) (R163), as character `idx` of a string. -/
def putcharSlots (cfg : Config) (idx : Nat) (c : Byte) : List Slot := sendSlots cfg idx c true .tShort

/-- PUTSTR(s) (R164): the characters in ascending order, IDX counting from `idx`. -/
def putstrSlots (cfg : Config) (idx : Nat) : Bytes → List Slot
  | [] => []
  | c :: cs => putcharSlots cfg idx c ++ putstrSlots cfg (idx + 1) cs

/-! ## The operations -/

/-- INIT takes no operand (R152). -/
def jobInit (r : Run) : Job := .plain (initSlots r.cfg)

/-- CLEAR takes no operand (R155). -/
def jobClear (r : Run) : Job := .plain (clearSlots r.cfg)

/-- HOME takes no operand (R156). -/
def jobHome (r : Run) : Job := .plain (homeSlots r.cfg)

/-- GOTOXY with the port's operands `COL`, `ROW` (R157). -/
def jobGotoxy (r : Run) : Job :=
  { ct := none, count := none, body := gotoxyBody r.cfg r.operands.col r.operands.row }

/-- ENTRYMODE with the port's operands `ID`, `SH` (R161). -/
def jobEntrymode (r : Run) : Job := .plain (entrymodeSlots r.cfg r.operands.id r.operands.sh)

/-- DISPCTL with the port's operands `ON`, `CUR`, `BLK` (R162). -/
def jobDispctl (r : Run) : Job := .plain (dispctlSlots r.cfg r.operands.on r.operands.cur r.operands.blk)

/-- PUTCHAR with the port's operand `B` (R163). -/
def jobPutchar (r : Run) : Job := .plain (putcharSlots r.cfg 0 r.operands.b)

/-- PUTSTR with the port's operand `S` (R164). -/
def jobPutstr (r : Run) : Job := .plain (putstrSlots r.cfg 0 r.operands.s)

/-- INIT (R152 to R154, R167). -/
def execInit (s : State) : Host.Outcome State Fault Refusal := startJob .init (jobInit s.run) s

/-- CLEAR (R155). -/
def execClear (s : State) : Host.Outcome State Fault Refusal := startJob .clear (jobClear s.run) s

/-- HOME (R156). -/
def execHome (s : State) : Host.Outcome State Fault Refusal := startJob .home (jobHome s.run) s

/-- GOTOXY (R157 to R160). -/
def execGotoxy (s : State) : Host.Outcome State Fault Refusal := startJob .gotoxy (jobGotoxy s.run) s

/-- ENTRYMODE (R161). -/
def execEntrymode (s : State) : Host.Outcome State Fault Refusal := startJob .entrymode (jobEntrymode s.run) s

/-- DISPCTL (R162). -/
def execDispctl (s : State) : Host.Outcome State Fault Refusal := startJob .dispctl (jobDispctl s.run) s

/-- PUTCHAR (R163). -/
def execPutchar (s : State) : Host.Outcome State Fault Refusal := startJob .putchar (jobPutchar s.run) s

/-- PUTSTR (R164 to R166). -/
def execPutstr (s : State) : Host.Outcome State Fault Refusal := startJob .putstr (jobPutstr s.run) s

end Sys2Proof.Machine
end

