-- ==== Sys2Proof/Machine/Dispatcher.lean ====
section
/-! DEFINITION. The Command Dispatcher (43_dispatcher.md): operation REQUEST, and the request forms of format Q. -/

namespace Sys2Proof.Machine

/-! ## Control tokens -/

/-- The ControlToken of a selector value 0 to 9 (30_encoding.md R97, 10_state.md R24). -/
def tokenOf (sel : Nat) : ControlToken :=
  if sel = 0 then { kind := .clear, n := sel }
  else if sel ≤ 4 then { kind := .gotoRow, n := sel }
  else { kind := .invalid, n := sel }

/-- What a token runs (R197 to R199): CLEAR(), GOTOXY(0, n - 1), or, for an unsupported command, which is handled locally
(60_exceptions.md R225), PUTSTR(INVALID_MSG). -/
def tokenBody (cfg : Config) (ct : ControlToken) : Except Status (List Slot) :=
  match ct.kind with
  | .clear => .ok (clearSlots cfg)
  | .gotoRow => gotoxyBody cfg 0 (BitVec.ofNat 8 (ct.n - 1))
  | .invalid => .ok (putstrSlots cfg 0 Config.invalidMsg)

/-- A request of `len` bytes with selector value `sel` (R195, R200). -/
def tokenJob (cfg : Config) (sel len : Nat) : Job :=
  { ct := some (tokenOf sel), count := some len, body := tokenBody cfg (tokenOf sel) }

/-- A request of `len` bytes whose text is literal (R194, R200). -/
def textJob (cfg : Config) (text : Bytes) (len : Nat) : Job :=
  { ct := none, count := some len, body := .ok (putstrSlots cfg 0 text) }

/-! ## REQUEST -/

/-- REQUEST(RB) (R190), check by check in the order of R202. -/
def requestJob (cfg : Config) (rb : Bytes) : Job :=
  if rb.length = 0 then .rejected .malformedControlToken
  else
    let text := rb.dropLast
    if beginsWithMarker text then
      if text.length ≠ 4 then .rejected .malformedControlToken
      else
        let k := (text.getD 3 0).toNat
        if k < 0x30 ∨ 0x39 < k then .rejected .malformedControlToken
        else tokenJob cfg (k - 0x30) rb.length
    else textJob cfg text rb.length

/-- REQUEST with the port's operand `RB` (R190). -/
def jobRequest (r : Run) : Job := requestJob r.cfg r.operands.rb

/-- REQUEST (R190 to R204). -/
def execRequest (s : State) : Host.Outcome State Fault Refusal := startJob .request (jobRequest s.run) s

/-! ## The request forms: REQUEST with a buffer of that form. The terminator is not looked at (30_encoding.md R98). -/

/-- REQ.CLEAR (R197). -/
def jobReqClear (t : Byte) (r : Run) : Job := tokenJob r.cfg 0 (encode (.reqClear t)).length

/-- REQ.GOTOROW1 (R198). -/
def jobReqGotoRow1 (t : Byte) (r : Run) : Job := tokenJob r.cfg 1 (encode (.reqGotoRow1 t)).length

/-- REQ.GOTOROW2 (R198). -/
def jobReqGotoRow2 (t : Byte) (r : Run) : Job := tokenJob r.cfg 2 (encode (.reqGotoRow2 t)).length

/-- REQ.GOTOROW3 (R198). -/
def jobReqGotoRow3 (t : Byte) (r : Run) : Job := tokenJob r.cfg 3 (encode (.reqGotoRow3 t)).length

/-- REQ.GOTOROW4 (R198). -/
def jobReqGotoRow4 (t : Byte) (r : Run) : Job := tokenJob r.cfg 4 (encode (.reqGotoRow4 t)).length

/-- REQ.INVALID5 (R199). -/
def jobReqInvalid5 (t : Byte) (r : Run) : Job := tokenJob r.cfg 5 (encode (.reqInvalid5 t)).length

/-- REQ.INVALID6 (R199). -/
def jobReqInvalid6 (t : Byte) (r : Run) : Job := tokenJob r.cfg 6 (encode (.reqInvalid6 t)).length

/-- REQ.INVALID7 (R199). -/
def jobReqInvalid7 (t : Byte) (r : Run) : Job := tokenJob r.cfg 7 (encode (.reqInvalid7 t)).length

/-- REQ.INVALID8 (R199). -/
def jobReqInvalid8 (t : Byte) (r : Run) : Job := tokenJob r.cfg 8 (encode (.reqInvalid8 t)).length

/-- REQ.INVALID9 (R199). -/
def jobReqInvalid9 (t : Byte) (r : Run) : Job := tokenJob r.cfg 9 (encode (.reqInvalid9 t)).length

/-- REQ.TEXT (R194): the text whole, every byte unchanged. -/
def jobReqText (text : Bytes) (t : Byte) (r : Run) : Job := textJob r.cfg text (encode (.reqText text t)).length

/-- REQ.MALFORMED (R196): an input error, no display update attempted. -/
def jobReqMalformed (_tail : Bytes) (_t : Byte) (_r : Run) : Job := .rejected .malformedControlToken

/-- REQ.EMPTY (R191): rejected, no write. -/
def jobReqEmpty (_r : Run) : Job := .rejected .malformedControlToken

/-- REQ.CLEAR (R197). -/
def execReqClear (t : Byte) (s : State) : Host.Outcome State Fault Refusal :=
  startJob (.reqClear t) (jobReqClear t s.run) s

/-- REQ.GOTOROW1 (R198). -/
def execReqGotoRow1 (t : Byte) (s : State) : Host.Outcome State Fault Refusal :=
  startJob (.reqGotoRow1 t) (jobReqGotoRow1 t s.run) s

/-- REQ.GOTOROW2 (R198). -/
def execReqGotoRow2 (t : Byte) (s : State) : Host.Outcome State Fault Refusal :=
  startJob (.reqGotoRow2 t) (jobReqGotoRow2 t s.run) s

/-- REQ.GOTOROW3 (R198). -/
def execReqGotoRow3 (t : Byte) (s : State) : Host.Outcome State Fault Refusal :=
  startJob (.reqGotoRow3 t) (jobReqGotoRow3 t s.run) s

/-- REQ.GOTOROW4 (R198). -/
def execReqGotoRow4 (t : Byte) (s : State) : Host.Outcome State Fault Refusal :=
  startJob (.reqGotoRow4 t) (jobReqGotoRow4 t s.run) s

/-- REQ.INVALID5 (R199). -/
def execReqInvalid5 (t : Byte) (s : State) : Host.Outcome State Fault Refusal :=
  startJob (.reqInvalid5 t) (jobReqInvalid5 t s.run) s

/-- REQ.INVALID6 (R199). -/
def execReqInvalid6 (t : Byte) (s : State) : Host.Outcome State Fault Refusal :=
  startJob (.reqInvalid6 t) (jobReqInvalid6 t s.run) s

/-- REQ.INVALID7 (R199). -/
def execReqInvalid7 (t : Byte) (s : State) : Host.Outcome State Fault Refusal :=
  startJob (.reqInvalid7 t) (jobReqInvalid7 t s.run) s

/-- REQ.INVALID8 (R199). -/
def execReqInvalid8 (t : Byte) (s : State) : Host.Outcome State Fault Refusal :=
  startJob (.reqInvalid8 t) (jobReqInvalid8 t s.run) s

/-- REQ.INVALID9 (R199). -/
def execReqInvalid9 (t : Byte) (s : State) : Host.Outcome State Fault Refusal :=
  startJob (.reqInvalid9 t) (jobReqInvalid9 t s.run) s

/-- REQ.TEXT (R194). -/
def execReqText (text : Bytes) (t : Byte) (s : State) : Host.Outcome State Fault Refusal :=
  startJob (.reqText text t) (jobReqText text t s.run) s

/-- REQ.MALFORMED (R196). -/
def execReqMalformed (tail : Bytes) (t : Byte) (s : State) : Host.Outcome State Fault Refusal :=
  startJob (.reqMalformed tail t) (jobReqMalformed tail t s.run) s

/-- REQ.EMPTY (R191). -/
def execReqEmpty (s : State) : Host.Outcome State Fault Refusal := startJob .reqEmpty (jobReqEmpty s.run) s

end Sys2Proof.Machine
end

