-- ==== Sys2Proof/Machine/Reserved.lean ====
section
/-! DEFINITION. The reserved selectors 0xB to 0xF (30_encoding.md R102, 93_implementation_defined.md U12, D15): they spell no
operation and a model refuses them; no trace, no result. Log entry 9. -/

namespace Sys2Proof.Machine

/-- RESERVED_B (R102). -/
def execReservedB (_s : State) : Host.Outcome State Fault Refusal := .refused (.reservedSelector 0xB)

/-- RESERVED_C (R102). -/
def execReservedC (_s : State) : Host.Outcome State Fault Refusal := .refused (.reservedSelector 0xC)

/-- RESERVED_D (R102). -/
def execReservedD (_s : State) : Host.Outcome State Fault Refusal := .refused (.reservedSelector 0xD)

/-- RESERVED_E (R102). -/
def execReservedE (_s : State) : Host.Outcome State Fault Refusal := .refused (.reservedSelector 0xE)

/-- RESERVED_F (R102). -/
def execReservedF (_s : State) : Host.Outcome State Fault Refusal := .refused (.reservedSelector 0xF)

end Sys2Proof.Machine
end

