-- ==== Sys2Proof/Machine/Words.lean ====
section
/-! DEFINITION. The encoded things the block sends, each run alone (30_encoding.md, formats C, N, D and X): a command or data
byte is the common step SEND with its class of delay (R84, 42_command_layer.md R150, R151); an initialisation nibble is one
pulse with its delay (R90); an expander byte is one register write. Log entries 20 and 21. -/

namespace Sys2Proof.Machine

/-- CMD_CLEAR (R85), sent with `rs` = 0, followed by `T_LONG`. -/
def jobCmdClear (r : Run) : Job := .plain (sendSlots r.cfg 0 r.cfg.codes.clear false .tLong)

/-- CMD_HOME (R86), sent with `rs` = 0, followed by `T_LONG`. -/
def jobCmdHome (r : Run) : Job := .plain (sendSlots r.cfg 0 r.cfg.codes.home false .tLong)

/-- CMD_ENTRY (R87), sent with `rs` = 0, followed by `T_SHORT`. -/
def jobCmdEntry (id sh : Bool) (r : Run) : Job := .plain (sendSlots r.cfg 0 (cmdEntry r.cfg id sh) false .tShort)

/-- CMD_DISPCTL (R88), sent with `rs` = 0, followed by `T_SHORT`. -/
def jobCmdDispctl (on cur blk : Bool) (r : Run) : Job :=
  .plain (sendSlots r.cfg 0 (cmdDispctl r.cfg on cur blk) false .tShort)

/-- CMD_FUNCSET (R89), sent with `rs` = 0, followed by `T_SHORT`. -/
def jobCmdFuncset (dl n f : Bool) (r : Run) : Job := .plain (sendSlots r.cfg 0 (cmdFuncset r.cfg dl n f) false .tShort)

/-- CMD_SETDDRAM (R91), sent with `rs` = 0, followed by `T_SHORT`. -/
def jobCmdSetddram (a : BitVec 7) (r : Run) : Job :=
  .plain (sendSlots r.cfg 0 (cmdSetddram (a.setWidth 8)) false .tShort)

/-- NIB_FS8 (R90): a single NIBBLE with `rs` = 0, followed by `T_INIT`. -/
def jobNibFs8 (r : Run) : Job := .plain (pulseSlots r.cfg r.cfg.codes.nibFs8 .tInit)

/-- NIB_FS4 (R90): a single NIBBLE with `rs` = 0, followed by `T_SHORT`. -/
def jobNibFs4 (r : Run) : Job := .plain (pulseSlots r.cfg r.cfg.codes.nibFs4 .tShort)

/-- DATA (R93): sent with `rs` = 1, unchanged, followed by `T_SHORT`. -/
def jobData (c : Byte) (r : Run) : Job := .plain (sendSlots r.cfg 0 c true .tShort)

/-- XBYTE (R81): the primitive `BusWrite` of that byte (00_scope.md R11, 20_memory.md R50); the settle waits belong to a pulse
(40_nibble_encoder.md R123), not to the byte. -/
def jobXbyte (d : Nibble) (bl e rs : Bool) (_r : Run) : Job := .plain [⟨.write (assembleX d bl e rs), none, 0⟩]

/-- CMD_CLEAR (R85). -/
def execCmdClear (s : State) : Host.Outcome State Fault Refusal := startJob .cmdClear (jobCmdClear s.run) s

/-- CMD_HOME (R86). -/
def execCmdHome (s : State) : Host.Outcome State Fault Refusal := startJob .cmdHome (jobCmdHome s.run) s

/-- CMD_ENTRY (R87). -/
def execCmdEntry (id sh : Bool) (s : State) : Host.Outcome State Fault Refusal :=
  startJob (.cmdEntry id sh) (jobCmdEntry id sh s.run) s

/-- CMD_DISPCTL (R88). -/
def execCmdDispctl (on cur blk : Bool) (s : State) : Host.Outcome State Fault Refusal :=
  startJob (.cmdDispctl on cur blk) (jobCmdDispctl on cur blk s.run) s

/-- CMD_FUNCSET (R89). -/
def execCmdFuncset (dl n f : Bool) (s : State) : Host.Outcome State Fault Refusal :=
  startJob (.cmdFuncset dl n f) (jobCmdFuncset dl n f s.run) s

/-- CMD_SETDDRAM (R91). -/
def execCmdSetddram (a : BitVec 7) (s : State) : Host.Outcome State Fault Refusal :=
  startJob (.cmdSetddram a) (jobCmdSetddram a s.run) s

/-- NIB_FS8 (R90). -/
def execNibFs8 (s : State) : Host.Outcome State Fault Refusal := startJob .nibFs8 (jobNibFs8 s.run) s

/-- NIB_FS4 (R90). -/
def execNibFs4 (s : State) : Host.Outcome State Fault Refusal := startJob .nibFs4 (jobNibFs4 s.run) s

/-- DATA (R93). -/
def execData (c : Byte) (s : State) : Host.Outcome State Fault Refusal := startJob (.data c) (jobData c s.run) s

/-- XBYTE (R81). -/
def execXbyte (d : Nibble) (bl e rs : Bool) (s : State) : Host.Outcome State Fault Refusal :=
  startJob (.xbyte d bl e rs) (jobXbyte d bl e rs s.run) s

end Sys2Proof.Machine
end

