-- ==== Sys2Proof/Machine/Dispatch.lean ====
section
/-! DEFINITION. exec: one arm per constructor of Instr, each one direct call of that instruction's meaning. -/

namespace Sys2Proof.Machine

def exec (i : Instr) (s : State) : Host.Outcome State Fault Refusal :=
  match i with
  | .nibble => Sys2Proof.Machine.execNibble s
  | .byte => Sys2Proof.Machine.execByte s
  | .init => Sys2Proof.Machine.execInit s
  | .clear => Sys2Proof.Machine.execClear s
  | .home => Sys2Proof.Machine.execHome s
  | .gotoxy => Sys2Proof.Machine.execGotoxy s
  | .entrymode => Sys2Proof.Machine.execEntrymode s
  | .dispctl => Sys2Proof.Machine.execDispctl s
  | .putchar => Sys2Proof.Machine.execPutchar s
  | .putstr => Sys2Proof.Machine.execPutstr s
  | .request => Sys2Proof.Machine.execRequest s
  | .reservedB => Sys2Proof.Machine.execReservedB s
  | .reservedC => Sys2Proof.Machine.execReservedC s
  | .reservedD => Sys2Proof.Machine.execReservedD s
  | .reservedE => Sys2Proof.Machine.execReservedE s
  | .reservedF => Sys2Proof.Machine.execReservedF s
  | .reqClear t => Sys2Proof.Machine.execReqClear t s
  | .reqGotoRow1 t => Sys2Proof.Machine.execReqGotoRow1 t s
  | .reqGotoRow2 t => Sys2Proof.Machine.execReqGotoRow2 t s
  | .reqGotoRow3 t => Sys2Proof.Machine.execReqGotoRow3 t s
  | .reqGotoRow4 t => Sys2Proof.Machine.execReqGotoRow4 t s
  | .reqInvalid5 t => Sys2Proof.Machine.execReqInvalid5 t s
  | .reqInvalid6 t => Sys2Proof.Machine.execReqInvalid6 t s
  | .reqInvalid7 t => Sys2Proof.Machine.execReqInvalid7 t s
  | .reqInvalid8 t => Sys2Proof.Machine.execReqInvalid8 t s
  | .reqInvalid9 t => Sys2Proof.Machine.execReqInvalid9 t s
  | .reqText text t => Sys2Proof.Machine.execReqText text t s
  | .reqMalformed tail t => Sys2Proof.Machine.execReqMalformed tail t s
  | .reqEmpty => Sys2Proof.Machine.execReqEmpty s
  | .cmdClear => Sys2Proof.Machine.execCmdClear s
  | .cmdHome => Sys2Proof.Machine.execCmdHome s
  | .cmdEntry id sh => Sys2Proof.Machine.execCmdEntry id sh s
  | .cmdDispctl on cur blk => Sys2Proof.Machine.execCmdDispctl on cur blk s
  | .cmdFuncset dl n f => Sys2Proof.Machine.execCmdFuncset dl n f s
  | .cmdSetddram a => Sys2Proof.Machine.execCmdSetddram a s
  | .nibFs8 => Sys2Proof.Machine.execNibFs8 s
  | .nibFs4 => Sys2Proof.Machine.execNibFs4 s
  | .data c => Sys2Proof.Machine.execData c s
  | .xbyte d bl e rs => Sys2Proof.Machine.execXbyte d bl e rs s

end Sys2Proof.Machine
end

