-- ==== Sys2Proof/Machine/Jobs.lean ====
section
/-! DEFINITION. The expansion of every operation (30_encoding.md R105), by the instruction OPSEL holds: what STEP counts in
(10_state.md R27), and what a step with BUSY = 1 goes on with. -/

namespace Sys2Proof.Machine

/-- The expansion of instruction `i` with the run's operands and configuration; a reserved selector has none (R102). -/
def jobOf (i : Instr) (r : Run) : Option Job :=
  match i with
  | .nibble => some (jobNibble r)
  | .byte => some (jobByte r)
  | .init => some (jobInit r)
  | .clear => some (jobClear r)
  | .home => some (jobHome r)
  | .gotoxy => some (jobGotoxy r)
  | .entrymode => some (jobEntrymode r)
  | .dispctl => some (jobDispctl r)
  | .putchar => some (jobPutchar r)
  | .putstr => some (jobPutstr r)
  | .request => some (jobRequest r)
  | .reservedB => none
  | .reservedC => none
  | .reservedD => none
  | .reservedE => none
  | .reservedF => none
  | .reqClear t => some (jobReqClear t r)
  | .reqGotoRow1 t => some (jobReqGotoRow1 t r)
  | .reqGotoRow2 t => some (jobReqGotoRow2 t r)
  | .reqGotoRow3 t => some (jobReqGotoRow3 t r)
  | .reqGotoRow4 t => some (jobReqGotoRow4 t r)
  | .reqInvalid5 t => some (jobReqInvalid5 t r)
  | .reqInvalid6 t => some (jobReqInvalid6 t r)
  | .reqInvalid7 t => some (jobReqInvalid7 t r)
  | .reqInvalid8 t => some (jobReqInvalid8 t r)
  | .reqInvalid9 t => some (jobReqInvalid9 t r)
  | .reqText text t => some (jobReqText text t r)
  | .reqMalformed tail t => some (jobReqMalformed tail t r)
  | .reqEmpty => some (jobReqEmpty r)
  | .cmdClear => some (jobCmdClear r)
  | .cmdHome => some (jobCmdHome r)
  | .cmdEntry id sh => some (jobCmdEntry id sh r)
  | .cmdDispctl on cur blk => some (jobCmdDispctl on cur blk r)
  | .cmdFuncset dl n f => some (jobCmdFuncset dl n f r)
  | .cmdSetddram a => some (jobCmdSetddram a r)
  | .nibFs8 => some (jobNibFs8 r)
  | .nibFs4 => some (jobNibFs4 r)
  | .data c => some (jobData c r)
  | .xbyte d bl e rs => some (jobXbyte d bl e rs r)

/-- One step of a busy instance: the operation in flight goes on (60_exceptions.md R246). -/
def resume (s : State) : Host.Outcome State Fault Refusal :=
  match jobOf s.run.opsel s.run with
  | some j => resumeJob j s
  | none => .fault .noOperationInFlight

end Sys2Proof.Machine
end

