-- ==== Sys2Proof/Machine/Launch.lean ====
section
/-! DEFINITION. The host's starts (00_scope.md R8, 10_state.md R26, 43_dispatcher.md R190): presenting operands, decoding the
word at its place, and running what it says. -/

namespace Sys2Proof.Machine

/-- The operands a start presents: at the request port the bytes delivered are the request buffer `RB` (R25). -/
def Start.presents (st : Start) : Operands :=
  match st.fmt with
  | .Q => { st.operands with rb := st.word }
  | .P | .N | .C | .D | .X => st.operands

/-- The port presents a start's operands; the start leaves the host's list. -/
def State.latch (st : Start) (rest : List Start) (s : State) : State :=
  { s with run := { s.run with operands := st.presents, host := rest } }

/-- The host starts something: its word is decoded in its format, and what it stands for is run. -/
def launch (st : Start) (rest : List Start) (s : State) : Host.Outcome State Fault Refusal :=
  match decode st.fmt st.word with
  | .error why => .refused (.noSuchWord why)
  | .ok i => exec i (s.latch st rest)

/-- A busy instance goes on with its operation; an idle one does nothing (60_exceptions.md R244: nothing wakes it but the
start of an operation). -/
def goOn (s : State) : Host.Outcome State Fault Refusal := if s.busy then resume s else .next s

/-- One step: the next start of the host if its time has come, else the block goes on. A host that keeps its duty waits for
BUSY to fall (20_memory.md R66); one that does not starts at once. -/
def advance (s : State) : Host.Outcome State Fault Refusal :=
  match s.run.host with
  | [] => goOn s
  | st :: rest => if s.busy && st.waits then resume s else launch st rest s

/-- The start that stands for a bare word of the opcode table: at the place of its format, every operand zero. -/
def startOfWord (nbits w : Nat) : Start :=
  { fmt := (tableWord nbits w).1, word := (tableWord nbits w).2, operands := Operands.zero, waits := true }

/-- The host's next start is `st`, and the instance is ready for it. -/
def State.prepend (st : Start) (s : State) : State :=
  { s with busy := false, run := { s.run with host := st :: s.run.host } }

end Sys2Proof.Machine
end

