-- ==== Sys2Proof/Machine/Step.lean ====
section
/-! DEFINITION. The machine's step, and the placing of a word of the opcode table where the step takes its next instruction. -/

namespace Sys2Proof.Machine

/-- One step of one instance: a whole operation from its start to its result or to a write that is not answered, or the
operation in flight going on from there (log entry 1). -/
def step (s : State) : Host.Outcome State Fault Refusal := advance s

/-- `s` with a table word of `nbits` bits as the host's next start (log entry 25). -/
def State.withFetchWord (s : State) (nbits w : Nat) : State := s.prepend (startOfWord nbits w)

end Sys2Proof.Machine
end

