-- ==== Sys2Proof/Machine/BringUp.lean ====
section
/-! DEFINITION. Bring-up (70_reset_and_hazards.md R264): not an operation of the port, but the host's duty at discovery
written out. -/

namespace Sys2Proof.Machine

/-- The port presents the string `x`. -/
def State.presentString (x : Bytes) (s : State) : State :=
  { s with run := { s.run with operands := { s.run.operands with s := x } } }

/-- The operation in flight goes on while it is held, at most `n` times. -/
def runToEnd : Nat → State → Host.Outcome State Fault Refusal
  | 0, s => .next s
  | n + 1, s =>
    if s.busy then
      match resume s with
      | .next t => runToEnd n t
      | .fault f => .fault f
      | .refused r => .refused r
    else .next s

/-- Calling operation `i` runs it to its end (00_scope.md R13): past every late answer, of which no more can come than answers
are listed. It is still in flight afterwards only at a write that is never answered (60_exceptions.md R246). -/
def call (i : Instr) (s : State) : Host.Outcome State Fault Refusal :=
  match exec i s with
  | .next t => runToEnd (t.run.bus.length + 1) t
  | .fault f => .fault f
  | .refused r => .refused r

/-- INIT(), then PUTSTR(BANNER); if INIT raises, bring-up ends with that error (R264). Where a write of INIT is never
answered, INIT does not end and the banner does not begin. -/
def bringUp (s : State) : Host.Outcome State Fault Refusal :=
  match call .init s with
  | .next t => if t.busy ∨ t.status ≠ .ok then .next t else call .putstr (t.presentString Config.banner)
  | .fault f => .fault f
  | .refused r => .refused r

end Sys2Proof.Machine
end

