-- ==== Sys2Proof/Machine/View.lean ====
section
/-! DEFINITION. What the outside sees: the pins (10_state.md R29, 60_exceptions.md R241), and what can be read off a trace: the
decoded view (40_nibble_encoder.md R128), the register writes, and the least duration (70_reset_and_hazards.md R280). -/

namespace Sys2Proof.Machine

/-- Field `DATA` of XREG, bits 7:4: the data lines D7 down to D4 (R29). -/
def pinData (x : Byte) : Nibble := hiNibble x

/-- Field `BL` of XREG (R29). -/
def pinBl (x : Byte) : Bool := x.getLsbD Config.blBit

/-- Field `ZERO` of XREG (R29). -/
def pinZero (x : Byte) : Bool := x.getLsbD Config.zeroBit

/-- Field `STROBE` of XREG (R29). -/
def pinStrobe (x : Byte) : Bool := x.getLsbD Config.strobeBit

/-- Field `RS` of XREG (R29). -/
def pinRs (x : Byte) : Bool := x.getLsbD Config.rsBit

/-- The backlight is lit when the last byte written had bit 3 set (R241). -/
def State.backlightLit (s : State) : Bool := pinBl s.xreg

/-- What the controller latches in one pulse: nibble, register-select, backlight (R127, R128). -/
abbrev Latched := Nibble × Bool × Bool

/-- The triple a write of `b` directly after a write of `a` latches, if it is the falling strobe of a pulse: `a[1]` = 1,
`b[1]` = 0 and `b` = `a & 0xFD`. The inverse of PLACE is PLACE. -/
def latchOf (p : Placement) (a b : Byte) : Option Latched :=
  if a.getLsbD 1 && !b.getLsbD 1 && b == a &&& 0xFD then some (place p (hiNibble b), b.getLsbD 0, b.getLsbD 3) else none

/-- The scan of R128 after a write of `prev`; waits are ignored, a failed write latches nothing. -/
def viewFrom (p : Placement) (prev : Option Byte) : List Event → List Latched
  | [] => []
  | .d _ :: es => viewFrom p prev es
  | .wErr _ :: es => viewFrom p none es
  | .w b :: es => (prev.bind fun a => latchOf p a b).toList ++ viewFrom p (some b) es

/-- The decoded view of a trace (R128). -/
def decodedView (p : Placement) (es : List Event) : List Latched := viewFrom p none es

/-- The register writes of a trace that succeeded, in order (00_scope.md R9). -/
def writesOf : List Event → List Byte
  | [] => []
  | .w v :: es => v :: writesOf es
  | .wErr _ :: es => writesOf es
  | .d _ :: es => writesOf es

/-- The sum of the waits of a trace: the least time it takes (R280). -/
def leastDuration : List Event → Nat
  | [] => 0
  | .d t :: es => Config.duration t + leastDuration es
  | .w _ :: es => leastDuration es
  | .wErr _ :: es => leastDuration es

/-- All events of the instance so far, in order (20_memory.md R63). -/
def State.history (s : State) : List Event := s.past ++ s.trace

end Sys2Proof.Machine
end

