-- ==== Sys2Proof/Machine/Fleet.lean ====
section
/-! DEFINITION. Several instances (60_exceptions.md R242, 20_memory.md R67): one per discovered peer, each with its own name, bus
handle and XREG, all with the one table, and no signal between them. Discovery and removal are the core's two duties at the
ends of an instance's life (00_scope.md R5, 70_reset_and_hazards.md R260, R266). -/

namespace Sys2Proof.Machine

/-- The text of a name, where the host has given one (10_state.md R21). -/
def Name.text : Name → Option String
  | .unnamed => none
  | .display ordinal => some ("display" ++ Config.ordinalText ordinal)

/-- Creation of an instance, which is its reset (70_reset_and_hazards.md R260): identity and configuration as given by the
host, everything else as after reset. -/
def State.create (d : Device) (cfg : Config) : State :=
  { State.reset with device := d, run := { State.reset.run with cfg := cfg } }

/-- An instance under the ordinal that the host gave it (R242). -/
structure Member where
  ordinal : Nat
  state   : State
deriving DecidableEq, Repr

/-- An expander without an instance: its bus handle, and the level its pins keep (R266). -/
structure Orphan where
  bus  : Nat
  xreg : Byte
deriving DecidableEq, Repr

/-- All instances of one display model: the table they share (10_state.md R22), the instances, and the expanders of those that
were removed. -/
structure Fleet where
  lines   : LineTable
  members : List Member
  orphans : List Orphan
deriving DecidableEq, Repr

/-- No instance yet. -/
def Fleet.empty (lines : LineTable) : Fleet := { lines := lines, members := [], orphans := [] }

/-- The state of the instance with ordinal `k`. -/
def Fleet.state? (k : Nat) (f : Fleet) : Option State := (f.members.find? fun m => m.ordinal == k).map Member.state

/-- The level of the pins of the expander behind a bus handle: an instance's, or an orphan's. -/
def Fleet.pinsAt (bus : Nat) (f : Fleet) : Option Byte :=
  match f.members.find? fun m => m.state.device.bus == bus with
  | some m => some m.state.xreg
  | none => (f.orphans.find? fun o => o.bus == bus).map Orphan.xreg

/-- No instance has this ordinal, which makes the name, or this bus handle. -/
def Fleet.unused (ordinal bus : Nat) (f : Fleet) : Bool :=
  f.members.all fun m => m.ordinal != ordinal && m.state.device.bus != bus

/-- The instance a discovery creates: the name derived from the ordinal, the fleet's table in place of the one in `cfg`, and,
on an expander that an earlier instance left under power, the pins as they are (log entry 36). -/
def Fleet.newcomer (ordinal bus : Nat) (cfg : Config) (f : Fleet) : State :=
  let s := State.create { name := .display ordinal, bus := bus, lat := .shared } { cfg with lineBase := f.lines }
  { s with xreg := (f.pinsAt bus).getD s.xreg }

/-- A peer is discovered: the host gives a bus handle and an ordinal (R264). Which ordinal comes first, and which next, is not
stated (91_not_in_source.md N10) and is the host's: any that no instance has (log entry 36). Giving each instance its own is the host's
duty (R237); `none`: the duty is not kept, and the run is outside the spec. -/
def Fleet.discover (ordinal bus : Nat) (cfg : Config) (f : Fleet) : Option Fleet :=
  if f.unused ordinal bus then
    some { f with members := f.members ++ [{ ordinal := ordinal, state := f.newcomer ordinal bus cfg }],
                  orphans := f.orphans.filter fun o => o.bus != bus }
  else none

/-- A peer is removed (R266): the instance is gone, nothing is sent, and its expander's pins keep their level. The host may do
this between operations (R237); `none`: there is no such instance, or its operation is in flight. -/
def Fleet.remove (k : Nat) (f : Fleet) : Option Fleet :=
  match f.state? k with
  | none => none
  | some s =>
    if s.busy then none
    else some { f with members := f.members.filter fun m => m.ordinal != k,
                       orphans := { bus := s.device.bus, xreg := s.xreg } :: f.orphans }

/-- The state of the instance with ordinal `k` becomes `t`. -/
def Fleet.put (k : Nat) (t : State) (f : Fleet) : Fleet :=
  { f with members := f.members.map fun m => if m.ordinal = k then { m with state := t } else m }

/-- A step of the instance with ordinal `k`; the others do nothing. -/
def Fleet.stepAt (k : Nat) (f : Fleet) : Host.Outcome Fleet Fault Refusal :=
  match f.state? k with
  | none => .next f
  | some s =>
    match step s with
    | .next t => .next (f.put k t)
    | .fault e => .fault e
    | .refused r => .refused r

end Sys2Proof.Machine
end

