-- ==== Sys2Proof/Safety.lean ====
section
/-! DEFINITION. What counts as a safe run, in the terms the statements use: the invariants of the machine, the answers of the
bus that let an operation end, and the states an operation ends in. -/

namespace Sys2Proof.Machine

/-! ## Invariants -/

/-- What the document states of the table (20_memory.md R55) and what the spec adds to it there. -/
def TableOk (t : LineTable) : Prop :=
  t.row3.toNat ≠ t.row2.toNat + Config.cols ∧ t.row2.toNat < t.row1.toNat + Config.cols ∧
  ∀ r : Fin Config.rows, (lineBase t r).toNat + 19 < 0x80

/-- An idle block holds no protocol state (10_state.md R20, R35). -/
def IdleClean (s : State) : Prop := s.busy = false → s.stepNo = 0 ∧ s.idx = 0 ∧ s.pb = none ∧ s.ct = none

/-- The port of an idle block presents nothing: no operand and no request is kept (10_state.md R25, R26, 20_memory.md R56;
what it reads as meanwhile is log entry 4). -/
def PortIdle (s : State) : Prop := s.busy = false → s.run = s.run.release

/-- A busy block stands at a register write of the expansion of the operation OPSEL holds (10_state.md R27): the events
before it are its trace, and PB, IDX and CT are what they are at that write. -/
def InFlight (s : State) : Prop :=
  s.busy = true → ∃ j p k v, jobOf s.run.opsel s.run = some j ∧ j.body = .ok p ∧ p[s.stepNo]? = some k ∧
    k.act = .write v ∧ s.pb = k.pb ∧ s.idx = k.idx ∧ s.ct = j.ct ∧
    s.trace = (p.take s.stepNo).map fun m => m.act.event

/-- Bit 2 is 0 in every byte the block writes (30_encoding.md R81). -/
def ZeroBitClear (es : List Event) : Prop := ∀ v, .w v ∈ es ∨ .wErr v ∈ es → v.getLsbD Config.zeroBit = false

/-- A refused write is always the last event of its trace (00_scope.md R9). -/
def RefusedLast (es : List Event) : Prop := ∀ v, .wErr v ∉ es.dropLast

/-- The invariant of the machine. -/
structure Inv (s : State) : Prop where
  table   : TableOk s.run.cfg.lineBase
  idle    : IdleClean s
  port    : PortIdle s
  flight  : InFlight s
  zeroBit : ZeroBitClear s.history
  refused : RefusedLast s.trace

/-- The invariant of several instances (60_exceptions.md R242, 20_memory.md R54, R67): one table, and to each its own ordinal,
name and bus handle; an expander has an instance or is an orphan, not both, and an orphan only once. -/
structure Fleet.Inv (f : Fleet) : Prop where
  table    : ∀ m ∈ f.members, m.state.run.cfg.lineBase = f.lines
  named    : ∀ m ∈ f.members, m.state.device.name = .display m.ordinal
  ordinals : (f.members.map Member.ordinal).Nodup
  buses    : ((f.members.map fun m => m.state.device.bus) ++ f.orphans.map Orphan.bus).Nodup

/-! ## Traces the spec writes out -/

/-- The trace of a successful NIBBLE (40_nibble_encoder.md R120): `W(XH) D(T_EH) W(XL) D(T_EL)`. -/
def pulseTrace (cfg : Config) (v : Nibble) (rs bl : Bool) : List Event :=
  [.w (expanderByte cfg v rs bl true), .d .tEH, .w (expanderByte cfg v rs bl false), .d .tEL]

/-- The trace of a successful BYTE (41_byte_protocol.md R140): eight events, high nibble first. -/
def byteTrace (cfg : Config) (b : Byte) (rs bl : Bool) : List Event :=
  pulseTrace cfg (b.extractLsb' 4 4) rs bl ++ pulseTrace cfg (b.extractLsb' 0 4) rs bl

/-- The trace of a successful SEND (42_command_layer.md R150): nine events. -/
def sendTrace (cfg : Config) (b : Byte) (rs : Bool) (t : WaitClass) : List Event :=
  byteTrace cfg b rs cfg.backlight ++ [.d t]

/-- The trace of a successful PUTSTR (42_command_layer.md R164): that of each character in order. -/
def stringTrace (cfg : Config) (x : Bytes) : List Event := x.flatMap fun c => sendTrace cfg c true .tShort

/-- The trace of a nibble pulse of INIT with its delay (42_command_layer.md R152). -/
def pulseDelayTrace (cfg : Config) (v : Nibble) (t : WaitClass) : List Event :=
  pulseTrace cfg v false cfg.backlight ++ [.d t]

/-- The canonical trace of INIT (42_command_layer.md R152, R154): steps 1 to 9. -/
def initTrace (cfg : Config) : List Event :=
  pulseDelayTrace cfg cfg.codes.nibFs8 .tInit ++ pulseDelayTrace cfg cfg.codes.nibFs8 .tInit ++
  pulseDelayTrace cfg cfg.codes.nibFs8 .tInit ++ pulseDelayTrace cfg cfg.codes.nibFs4 .tShort ++
  sendTrace cfg (cmdFuncset cfg false true cfg.font) false .tShort ++
  sendTrace cfg (cmdDispctl cfg false false false) false .tShort ++
  sendTrace cfg cfg.codes.clear false .tLong ++
  sendTrace cfg (cmdEntry cfg true false) false .tShort ++
  sendTrace cfg (cmdDispctl cfg true true true) false .tShort

/-- Whole pulses and post-write delays, nothing else (70_reset_and_hazards.md R270 to R274): every strobe-high write is followed
by `T_EH`, by the same byte with the strobe bit cleared, and by `T_EL`. -/
def pacedTrace : List Event → Bool
  | [] => true
  | .d t :: es => (t == .tShort || t == .tLong || t == .tInit) && pacedTrace es
  | .w a :: .d x :: .w b :: .d y :: es =>
    x == .tEH && y == .tEL && a.getLsbD 1 && b == a &&& 0xFD && pacedTrace es
  | _ => false

/-! ## Answers of the bus -/

/-- The next `n` writes succeed. -/
def Answered (n : Nat) (s : State) : Prop := ∀ a ∈ s.run.bus.take n, a = .ok

/-- No write is left without an answer (the premise of 60_exceptions.md R246). -/
def EveryWriteAnswered (s : State) : Prop := .late ∉ s.run.bus ∧ .never ∉ s.run.bus

/-! ## The states operations end in -/

/-- XREG after the events `es`: the last byte a successful write put on the pins (10_state.md R29). -/
def xregAfter (old : Byte) (es : List Event) : Byte := (writesOf es).getLastD old

/-- The state after operation `i`, started in `s`, has ended with `Ok` and trace `es`; `count` is what it reports. Everything
not named is as before. -/
def State.afterOk (es : List Event) (count : Option Nat) (s : State) : State :=
  { s with
    busy := false, stepNo := 0, idx := 0, pb := none, ct := none, status := .ok,
    consumed := consumedAfter count s.consumed, xreg := xregAfter s.xreg es, trace := es, past := s.past ++ s.trace,
    run := { s.run.release with bus := s.run.bus.drop (writesOf es).length } }

/-- The state after operation `i`, started in `s`, has been rejected by a check with error `e`: an empty trace. -/
def State.afterCheck (e : Status) (s : State) : State :=
  { s with
    busy := false, stepNo := 0, idx := 0, pb := none, ct := none, status := e, trace := [], past := s.past ++ s.trace,
    run := s.run.release }

/-- The state after operation `i`, started in `s`, has ended with `BusError` at a write of `v` after the events `es`. XREG
holds its previous value or `v`, a free value out of the two (20_memory.md R52). -/
def State.afterBusError (es : List Event) (v : Byte) (s : State) : State :=
  { s with
    busy := false, stepNo := 0, idx := 0, pb := none, ct := none, status := .busError,
    xreg := if Config.failedWriteLands s.device.bus s.free then v else xregAfter s.xreg es, free := s.free + 1,
    trace := es ++ [.wErr v], past := s.past ++ s.trace,
    run := { s.run.release with bus := s.run.bus.drop ((writesOf es).length + 1) } }

end Sys2Proof.Machine
end

