-- ==== Sys2Proof/Certificates/Slice0/Obligations.lean ====
section
/-! DEFINITION. The statements for the provers, from the spec's numbered rules. `s.afterOk es n`, `s.afterCheck e` and
`s.afterBusError es v` (Safety.lean) are whole states: an equation with one of them says every register the operation
writes and that everything else is unchanged. -/

open Sys2Proof Sys2Proof.Machine

/-! ## Operand assembly and encodings -/

/-- 30_encoding.md R81, R82, 40_nibble_encoder.md R121, R122: every bit of the expander byte under both placements, and the
two bytes of a pulse. -/
def Obligations.ExpanderByteLayout : Prop :=
  ∀ (cfg : Config) (v : Nibble) (rs bl e : Bool),
    let x := expanderByte cfg v rs bl e
    x.getLsbD 0 = rs ∧ x.getLsbD 1 = e ∧ x.getLsbD 2 = false ∧ x.getLsbD 3 = bl ∧
    (cfg.placement = .reversed → x.getLsbD 7 = v.getLsbD 0 ∧ x.getLsbD 6 = v.getLsbD 1 ∧
      x.getLsbD 5 = v.getLsbD 2 ∧ x.getLsbD 4 = v.getLsbD 3) ∧
    (cfg.placement = .straight → x.getLsbD 7 = v.getLsbD 3 ∧ x.getLsbD 6 = v.getLsbD 2 ∧
      x.getLsbD 5 = v.getLsbD 1 ∧ x.getLsbD 4 = v.getLsbD 0) ∧
    expanderByte cfg v rs bl true = expanderByte cfg v rs bl false ||| 0x02 ∧
    expanderByte cfg v rs bl false = expanderByte cfg v rs bl true &&& 0xFD

/-- 30_encoding.md R101: `rev4` and, under both placements, PLACE are their own inverse (so PLACE is a bijection). -/
def Obligations.PlacementIsInvolution : Prop :=
  ∀ v : Nibble, rev4 (rev4 v) = v ∧ ∀ p : Placement, place p (place p v) = v

/-- Every well-formed instruction, with every operand at every value its encoding admits, is decoded from its own encoding
at the place of its format (30_encoding.md R80 to R106). -/
def Obligations.DecodeOfEncode : Prop :=
  ∀ i : Instr, i.wellFormed = true → decode i.format (encode i) = .ok i

/-- The other direction: bytes that decode are the encoding of a well-formed instruction of that format, so within a format
no two words spell one instruction and nothing falls through to a neighbour (30_encoding.md R80, R102). -/
def Obligations.EncodeOfDecode : Prop :=
  ∀ (f : Format) (bytes : Bytes) (i : Instr), decode f bytes = .ok i →
    encode i = bytes ∧ i.format = f ∧ i.wellFormed = true

/-- A few words written out from the spec's encodings (R81, R88 to R91, R93, R94, R97, R99): a sanity check. That classes and
flags of the command bytes and the nibble 0x3 have these values is decision D4 (log entry 12, PRESUMED: the family's). -/
def Obligations.DecodesSampleWords : Prop :=
  decode .P [0x05] = .ok .gotoxy ∧ decode .N [0x03] = .ok .nibFs8 ∧
  decode .C [0x0C] = .ok (.cmdDispctl true false false) ∧ decode .C [0x28] = .ok (.cmdFuncset false true false) ∧
  decode .C [0xC0] = .ok (.cmdSetddram 0x40) ∧ decode .C [0x50] = .error .cgramClass ∧
  decode .D [0x41] = .ok (.data 0x41) ∧ decode .X [0xCA] = .ok (.xbyte 0xC true true false) ∧
  decode .Q [0x5F, 0x5F, 0x5F, 0x32, 0x00] = .ok (.reqGotoRow2 0x00) ∧
  decode .Q [0x68, 0x69, 0x0A] = .ok (.reqText [0x68, 0x69] 0x0A) ∧ decode .Q [] = .ok .reqEmpty

/-! ## NIBBLE and BYTE -/

/-- 40_nibble_encoder.md R123, for an idle block whose next two writes succeed. -/
def Obligations.NibbleCompletes : Prop :=
  ∀ s : State, s.busy = false → Answered 2 s →
    exec .nibble s = .next (s.afterOk
      [.w (expanderByte s.run.cfg s.run.operands.v s.run.operands.rs s.run.operands.bl true), .d .tEH,
       .w (expanderByte s.run.cfg s.run.operands.v s.run.operands.rs s.run.operands.bl false), .d .tEL] none)

/-- 40_nibble_encoder.md R124 (its clause that no wait follows a failed write is decision D11): the two failing traces. XREG after the
refused write (20_memory.md R52, decision D17) is a free value, taken as log entry 6 says (the model's choice, unsafe). -/
def Obligations.NibbleFailures : Prop :=
  ∀ (s : State) (as : List BusAnswer), s.busy = false →
    let xh := expanderByte s.run.cfg s.run.operands.v s.run.operands.rs s.run.operands.bl true
    let xl := expanderByte s.run.cfg s.run.operands.v s.run.operands.rs s.run.operands.bl false
    (s.run.bus = .err :: as → exec .nibble s = .next (s.afterBusError [] xh)) ∧
    (s.run.bus = .ok :: .err :: as → exec .nibble s = .next (s.afterBusError [.w xh, .d .tEH] xl))

/-- How many writes a trace attempts, and how many succeed. -/
def attemptsOf (es : List Event) : Nat := (es.filter fun e => match e with | .d _ => false | .w _ => true | .wErr _ => true).length

/-- 40_nibble_encoder.md R125: write counts of a NIBBLE. -/
def Obligations.NibbleWriteCounts : Prop :=
  ∀ s t : State, exec .nibble s = .next t →
    (Answered 2 s → attemptsOf t.trace = 2 ∧ (writesOf t.trace).length = 2) ∧
    (∀ as, s.run.bus = .err :: as → attemptsOf t.trace = 1 ∧ writesOf t.trace = []) ∧
    (∀ as, s.run.bus = .ok :: .err :: as → attemptsOf t.trace = 2 ∧ (writesOf t.trace).length = 1) ∧
    attemptsOf t.trace ≤ 2

/-- 40_nibble_encoder.md R127 to R129, 60_exceptions.md R241: what a NIBBLE latches, and what stays on the pins. -/
def Obligations.NibbleDecodedView : Prop :=
  ∀ s t : State, exec .nibble s = .next t →
    (t.busy = false → t.status = .ok →
      decodedView s.run.cfg.placement t.trace = [(s.run.operands.v, s.run.operands.rs, s.run.operands.bl)] ∧
      t.xreg = expanderByte s.run.cfg s.run.operands.v s.run.operands.rs s.run.operands.bl false ∧
      place s.run.cfg.placement (pinData t.xreg) = s.run.operands.v ∧ pinStrobe t.xreg = false ∧
      pinZero t.xreg = false ∧ pinRs t.xreg = s.run.operands.rs ∧ t.backlightLit = s.run.operands.bl) ∧
    (t.status = .busError ∧ t.busy = false ∨ t.busy = true → decodedView s.run.cfg.placement t.trace = [])

/-- 20_memory.md R58, 41_byte_protocol.md R141, R142: the high nibble first, both with the flags of the byte, for an idle
block whose next four writes succeed; and what the controller latches (R128) is the two nibbles (R144, which the spec marks as
its own inference). -/
def Obligations.ByteCompletes : Prop :=
  ∀ s : State, s.busy = false → Answered 4 s →
    let o := s.run.operands
    let es := pulseTrace s.run.cfg (o.b.extractLsb' 4 4) o.rs o.bl ++ pulseTrace s.run.cfg (o.b.extractLsb' 0 4) o.rs o.bl
    exec .byte s = .next (s.afterOk es none) ∧
    decodedView s.run.cfg.placement es = [(o.b.extractLsb' 4 4, o.rs, o.bl), (o.b.extractLsb' 0 4, o.rs, o.bl)]

/-- 41_byte_protocol.md R143: the four failing traces of a BYTE, and that the controller has latched the high nibble and not
the low one in the third and fourth. What XREG holds after the refused write (20_memory.md R52, decision D17) is a free value,
taken as log entry 6 says (the model's choice, unsafe). -/
def Obligations.ByteFailures : Prop :=
  ∀ (s : State) (as : List BusAnswer), s.busy = false →
    let o := s.run.operands
    let h1 := expanderByte s.run.cfg (o.b.extractLsb' 4 4) o.rs o.bl true
    let h0 := expanderByte s.run.cfg (o.b.extractLsb' 4 4) o.rs o.bl false
    let l1 := expanderByte s.run.cfg (o.b.extractLsb' 0 4) o.rs o.bl true
    let l0 := expanderByte s.run.cfg (o.b.extractLsb' 0 4) o.rs o.bl false
    let fails := fun (es : List Event) (v : Byte) (seen : List Latched) =>
      exec .byte s = .next (s.afterBusError es v) ∧ decodedView s.run.cfg.placement (es ++ [.wErr v]) = seen
    (s.run.bus = .err :: as → fails [] h1 []) ∧
    (s.run.bus = .ok :: .err :: as → fails [.w h1, .d .tEH] h0 []) ∧
    (s.run.bus = .ok :: .ok :: .err :: as →
      fails [.w h1, .d .tEH, .w h0, .d .tEL] l1 [(o.b.extractLsb' 4 4, o.rs, o.bl)]) ∧
    (s.run.bus = .ok :: .ok :: .ok :: .err :: as →
      fails [.w h1, .d .tEH, .w h0, .d .tEL, .w l1, .d .tEH] l0 [(o.b.extractLsb' 4 4, o.rs, o.bl)])

/-! ## The Command Layer -/

/-- An operation that is delivered ends with `Ok` or `BusError`. -/
def OkOrBusError (i : Instr) (s : State) : Prop :=
  ∀ t, exec i s = .next t → t.busy = false → t.status = .ok ∨ t.status = .busError

/-- 42_command_layer.md R152, R154 (the delays the document does not mention are decision D10, the codes D4): INIT ends with
`Ok` or `BusError`; for an idle block whose next 28 writes succeed it sends its nine steps in order, 65 events, 28
writes. -/
def Obligations.InitCompletes : Prop :=
  ∀ s : State, OkOrBusError .init s ∧ (s.busy = false → Answered 28 s →
    exec .init s = .next (s.afterOk (initTrace s.run.cfg) none) ∧
    (initTrace s.run.cfg).length = 65 ∧ (writesOf (initTrace s.run.cfg)).length = 28)

/-- 42_command_layer.md R152, R154: what an INIT that ended with `Ok` has latched at the controller, with the standard codes
(decision D4, log entry 12), is `3 3 3 2`, then the bytes 0x28 or FONT, 0x08, 0x01, 0x06, 0x0F, all with `rs` = 0 and the
configured backlight, under either placement. -/
def Obligations.InitDecodedView : Prop :=
  ∀ s t : State, s.run.cfg.codes = Config.standardCodes → exec .init s = .next t → t.busy = false → t.status = .ok →
    decodedView s.run.cfg.placement t.trace =
      [0x3, 0x3, 0x3, 0x2, 0x2, if s.run.cfg.font then 0xC else 0x8, 0x0, 0x8, 0x0, 0x1, 0x0, 0x6, 0x0, 0xF].map
        fun n => (n, false, s.run.cfg.backlight)

/-- 42_command_layer.md R155: CLEAR. -/
def Obligations.ClearCompletes : Prop :=
  decode .P [0x3] = .ok .clear ∧ Config.standardCodes.clear = 0x01 ∧
  ∀ s : State, OkOrBusError .clear s ∧ (s.busy = false → Answered 4 s →
    exec .clear s = .next (s.afterOk (byteTrace s.run.cfg s.run.cfg.codes.clear false s.run.cfg.backlight ++
      [.d .tLong]) none))

/-- 42_command_layer.md R156, R161 (decision D9): HOME and ENTRYMODE. -/
def Obligations.HomeAndEntrymodeComplete : Prop :=
  ∀ s : State, s.busy = false → Answered 4 s →
    exec .home s = .next (s.afterOk (sendTrace s.run.cfg s.run.cfg.codes.home false .tLong) none) ∧
    exec .entrymode s = .next (s.afterOk (sendTrace s.run.cfg
      (s.run.cfg.codes.entryBase ||| (if s.run.operands.id then 0x02 else 0) ||| (if s.run.operands.sh then 0x01 else 0))
      false .tShort) none)

/-- 42_command_layer.md R162: DISPCTL. -/
def Obligations.DispctlCompletes : Prop :=
  decode .P [0x7] = .ok .dispctl ∧ Config.standardCodes.dispctlBase = 0x08 ∧
  ∀ s : State, OkOrBusError .dispctl s ∧ (s.busy = false → Answered 4 s →
    exec .dispctl s = .next (s.afterOk (sendTrace s.run.cfg
      (s.run.cfg.codes.dispctlBase ||| (if s.run.operands.on then 0x04 else 0) |||
        (if s.run.operands.cur then 0x02 else 0) ||| (if s.run.operands.blk then 0x01 else 0)) false .tShort) none))

/-- 42_command_layer.md R157: GOTOXY, with every column (R160) and, below row 4, the table's entry; at row 4 and above,
AddressOutOfRange before any write. -/
def Obligations.GotoxyCompletes : Prop :=
  decode .P [0x5] = .ok .gotoxy ∧
  ∀ s : State, s.busy = false →
    let o := s.run.operands
    let lines := s.run.cfg.lineBase
    let cmd := fun base : Byte => sendTrace s.run.cfg (0x80 ||| (base + o.col)) false .tShort
    (o.row = 0 → Answered 4 s → exec .gotoxy s = .next (s.afterOk (cmd lines.row0) none)) ∧
    (o.row = 1 → Answered 4 s → exec .gotoxy s = .next (s.afterOk (cmd lines.row1) none)) ∧
    (o.row = 2 → Answered 4 s → exec .gotoxy s = .next (s.afterOk (cmd lines.row2) none)) ∧
    (o.row = 3 → Answered 4 s → exec .gotoxy s = .next (s.afterOk (cmd lines.row3) none)) ∧
    (4 ≤ o.row.toNat → exec .gotoxy s = .next (s.afterCheck .addressOutOfRange)) ∧
    (o.row.toNat < 4 → OkOrBusError .gotoxy s)

/-- 60_exceptions.md R223: AddressOutOfRange is raised by GOTOXY with a row of 4 or more, with an empty trace, and by nothing
else. -/
def Obligations.AddressOutOfRangeCause : Prop :=
  ∀ (i : Instr) (s t : State), exec i s = .next t → t.busy = false →
    (t.status = .addressOutOfRange ↔ i = .gotoxy ∧ 4 ≤ s.run.operands.row.toNat) ∧
    (t.status = .addressOutOfRange → t.trace = [])

/-- 42_command_layer.md R158 with the table of decision D5: the 80 command values are pairwise distinct and in the stated
ranges. -/
def Obligations.CellAddressesDistinct : Prop :=
  ∀ (r r' : Fin 4) (c c' : Fin 20),
    let cmd := fun (x : Fin 4) (y : Fin 20) => cmdSetddram (ddramAddress Config.standard x (BitVec.ofNat 8 y.val))
    (cmd r c = cmd r' c' → r = r' ∧ c = c') ∧
    (cmd r c).toNat = (if r = 0 then 0x80 else if r = 1 then 0xC0 else if r = 2 then 0x94 else 0xD4) + c.val

/-- 42_command_layer.md R163: PUTCHAR, every value of the character sent unchanged. -/
def Obligations.PutcharCompletes : Prop :=
  decode .P [0x8] = .ok .putchar ∧
  ∀ s : State, OkOrBusError .putchar s ∧ (s.busy = false → Answered 4 s →
    exec .putchar s = .next (s.afterOk (sendTrace s.run.cfg s.run.operands.b true .tShort) none))

/-- 42_command_layer.md R164: PUTSTR sends the characters in order, nine events and four writes each; the empty string sends
nothing and succeeds. -/
def Obligations.PutstrCompletes : Prop :=
  decode .P [0x9] = .ok .putstr ∧
  ∀ s : State, OkOrBusError .putstr s ∧ (s.busy = false → Answered (4 * s.run.operands.s.length) s →
    let es := s.run.operands.s.flatMap fun c => sendTrace s.run.cfg c true .tShort
    exec .putstr s = .next (s.afterOk es none) ∧ es.length = 9 * s.run.operands.s.length ∧
    (writesOf es).length = 4 * s.run.operands.s.length)

/-- 42_command_layer.md R165: a failure on a character of PUTSTR. The characters before it are sent in full, of it what comes
before its failing write (the `n`-th of four, from 0), and nothing after it; invoked again with the same string once the
fault is gone, PUTSTR starts from the first character. What of the character is sent is 41_byte_protocol.md R143; what XREG
holds after the refused write (20_memory.md R52, decision D17) is a free value, taken as log entry 6 says (the model's
choice, unsafe). -/
def Obligations.PutstrFailure : Prop :=
  ∀ (s : State) (before after : Bytes) (c : Byte) (n : Nat) (v : Byte) (as : List BusAnswer),
    s.busy = false → s.run.operands.s = before ++ c :: after →
    s.run.bus = List.replicate (4 * before.length + n) .ok ++ .err :: as →
    (byteTrace s.run.cfg c true s.run.cfg.backlight)[2 * n]? = some (.w v) →
    let t := s.afterBusError
      (stringTrace s.run.cfg before ++ (byteTrace s.run.cfg c true s.run.cfg.backlight).take (2 * n)) v
    exec .putstr s = .next t ∧
    (Answered (4 * (before ++ c :: after).length) t →
      exec .putstr (t.presentString (before ++ c :: after)) =
        .next (t.afterOk (stringTrace s.run.cfg (before ++ c :: after)) none))

/-- 42_command_layer.md R150, R164 and the decoded view of 40_nibble_encoder.md R128: what a PUTSTR that ended with `Ok` has
latched is every character of the string, in order, high nibble first, as data. -/
def Obligations.DecodedViewOfString : Prop :=
  ∀ s t : State, exec .putstr s = .next t → t.busy = false → t.status = .ok →
    decodedView s.run.cfg.placement t.trace = s.run.operands.s.flatMap fun c =>
      [(c.extractLsb' 4 4, true, s.run.cfg.backlight), (c.extractLsb' 0 4, true, s.run.cfg.backlight)]

/-! ## REQUEST -/

/-- 43_dispatcher.md R194: a literal text goes whole to PUTSTR; the terminator is any byte (R192, R98). -/
def Obligations.RequestText : Prop :=
  ∀ (s : State) (text : Bytes) (t : Byte), s.run.operands.rb = text ++ [t] → ¬ (∃ tl, text = Config.marker ++ tl) →
    OkOrBusError .request s ∧ (s.busy = false → Answered (4 * text.length) s →
      exec .request s = .next (s.afterOk (stringTrace s.run.cfg text) (some (text.length + 1))))

/-- 43_dispatcher.md R197: the token with selector 0 runs CLEAR and nothing else. -/
def Obligations.RequestClear : Prop :=
  ∀ (s : State) (t : Byte), s.run.operands.rb = [0x5F, 0x5F, 0x5F, 0x30, t] →
    OkOrBusError .request s ∧ (s.busy = false → Answered 4 s →
      exec .request s = .next (s.afterOk (sendTrace s.run.cfg s.run.cfg.codes.clear false .tLong) (some 5)))

/-- 43_dispatcher.md R198: the tokens with selectors 1 to 4 run GOTOXY(0, selector - 1) and nothing else. -/
def Obligations.RequestGotoRow : Prop :=
  ∀ (s : State) (k t : Byte), s.run.operands.rb = [0x5F, 0x5F, 0x5F, k, t] →
    let lines := s.run.cfg.lineBase
    let goes := fun base : Byte => OkOrBusError .request s ∧ (s.busy = false → Answered 4 s →
      exec .request s = .next (s.afterOk (sendTrace s.run.cfg (0x80 ||| base) false .tShort) (some 5)))
    (k = 0x31 → goes lines.row0) ∧ (k = 0x32 → goes lines.row1) ∧ (k = 0x33 → goes lines.row2) ∧
    (k = 0x34 → goes lines.row3)

/-- 43_dispatcher.md R199, 60_exceptions.md R225: an unsupported selector, 5 to 9, displays the message and succeeds; if a
write fails meanwhile, the request has ended and its result is BusError. -/
def Obligations.RequestInvalid : Prop :=
  ∀ (s : State) (k t : Byte), s.run.operands.rb = [0x5F, 0x5F, 0x5F, k, t] → 0x35 ≤ k.toNat → k.toNat ≤ 0x39 →
    OkOrBusError .request s ∧
    (∀ (u : State) (v : Byte), exec .request s = .next u → .wErr v ∈ u.trace → u.busy = false ∧ u.status = .busError) ∧
    (s.busy = false → Answered 60 s →
      exec .request s = .next (s.afterOk (stringTrace s.run.cfg
        [0x49, 0x6E, 0x76, 0x61, 0x6C, 0x69, 0x64, 0x20, 0x63, 0x6F, 0x6D, 0x6D, 0x61, 0x6E, 0x64]) (some 5)))

/-- 60_exceptions.md R224: MalformedControlToken is raised by REQUEST only, by a request of length 0 or a text that begins
with the marker and is not the marker followed by exactly one decimal digit, with an empty trace. (The rows REQ.EMPTY
and REQ.MALFORMED are REQUEST with a buffer of that form.) -/
def Obligations.MalformedControlTokenCause : Prop :=
  ∀ s : State,
    let rb := s.run.operands.rb
    let malformed := rb = [] ∨ ∃ tl t, rb = Config.marker ++ tl ++ [t] ∧ ¬ ∃ k : Byte, tl = [k] ∧ 0x30 ≤ k.toNat ∧ k.toNat ≤ 0x39
    (s.busy = false → malformed → exec .request s = .next (s.afterCheck .malformedControlToken)) ∧
    (∀ (i : Instr) (u : State), exec i s = .next u → u.busy = false → u.status = .malformedControlToken →
      u.trace = [] ∧ (i = .request ∧ malformed ∨ i = .reqEmpty ∨ ∃ tl t, i = .reqMalformed tl t))

/-- 43_dispatcher.md R200: a request that succeeds reports its length; a request that fails does not write CONSUMED; no
operation but a request writes it (10_state.md R28). That a row of format Q is a request, and that its length is that of its
encoding, is the model's choice (log entry 22). -/
def Obligations.RequestCount : Prop :=
  ∀ (i : Instr) (s t : State), exec i s = .next t → t.busy = false →
    (i = .request → t.status = .ok → t.consumed = s.run.operands.rb.length) ∧
    (t.status ≠ .ok → t.consumed = s.consumed) ∧
    (i ≠ .request → i.format ≠ .Q → t.consumed = s.consumed) ∧
    (i.format = .Q → t.status = .ok → t.consumed = (encode i).length)

/-- 43_dispatcher.md R190, R195, 30_encoding.md R94 to R98: REQUEST at the operation port does to the buffer RB exactly what
the request form those bytes decode to does; only OPSEL tells them apart, and only while they are in flight (log
entry 22). -/
def Obligations.RequestMatchesItsForm : Prop :=
  ∀ s : State, s.busy = false →
    ∃ t u, exec .request s = .next t ∧ exec (decodeRequest s.run.operands.rb) s = .next u ∧
      t = { u with run := { u.run with opsel := t.run.opsel } } ∧ (t.busy = false → t = u)

/-- The rows REQ.CLEAR and REQ.GOTOROW1 to REQ.GOTOROW4 (43_dispatcher.md R197, R198) complete, whatever the terminator. -/
def Obligations.TokenFormsComplete : Prop :=
  ∀ (s : State) (t : Byte), s.busy = false → Answered 4 s →
    let cmd := fun base : Byte => sendTrace s.run.cfg (0x80 ||| base) false .tShort
    let lines := s.run.cfg.lineBase
    exec (.reqClear t) s = .next (s.afterOk (sendTrace s.run.cfg s.run.cfg.codes.clear false .tLong) (some 5)) ∧
    exec (.reqGotoRow1 t) s = .next (s.afterOk (cmd lines.row0) (some 5)) ∧
    exec (.reqGotoRow2 t) s = .next (s.afterOk (cmd lines.row1) (some 5)) ∧
    exec (.reqGotoRow3 t) s = .next (s.afterOk (cmd lines.row2) (some 5)) ∧
    exec (.reqGotoRow4 t) s = .next (s.afterOk (cmd lines.row3) (some 5))

/-- The rows REQ.INVALID5 to REQ.INVALID9 (43_dispatcher.md R199) complete: the message, result Ok(5). -/
def Obligations.InvalidFormsComplete : Prop :=
  ∀ (s : State) (t : Byte), s.busy = false → Answered 60 s →
    ∀ i ∈ [Instr.reqInvalid5 t, .reqInvalid6 t, .reqInvalid7 t, .reqInvalid8 t, .reqInvalid9 t],
      exec i s = .next (s.afterOk (stringTrace s.run.cfg Config.invalidMsg) (some 5))

/-- The rows REQ.TEXT (43_dispatcher.md R194), REQ.MALFORMED and REQ.EMPTY (R196, R191; decisions D12, D13): the text is
displayed; the other two are input errors, which is their own effect. -/
def Obligations.OpenFormsComplete : Prop :=
  ∀ (s : State) (text tail : Bytes) (t : Byte), s.busy = false →
    (Answered (4 * text.length) s → exec (.reqText text t) s =
      .next (s.afterOk (stringTrace s.run.cfg text) (some (text.length + 1)))) ∧
    exec (.reqMalformed tail t) s = .next (s.afterCheck .malformedControlToken) ∧
    exec .reqEmpty s = .next (s.afterCheck .malformedControlToken)

/-! ## Command bytes, data bytes, initialisation nibbles, expander bytes, run alone (log entries 20 and 21) -/

/-- 30_encoding.md R85 to R91, 42_command_layer.md R150, R151: a command byte is sent with `rs` = 0 and its post-write delay,
`T_LONG` after clear and home, `T_SHORT` after the others. That the byte is run alone is the model's reading (log
entry 20). -/
def Obligations.CommandWordsComplete : Prop :=
  ∀ (s : State) (x y z : Bool) (a : BitVec 7), s.busy = false → Answered 4 s →
    let c := s.run.cfg.codes
    let sends := fun (i : Instr) (b : Byte) (t : WaitClass) =>
      exec i s = .next (s.afterOk (sendTrace s.run.cfg b false t) none)
    let f := fun (b : Bool) (v : Byte) => if b then v else 0
    sends .cmdClear c.clear .tLong ∧ sends .cmdHome c.home .tLong ∧
    sends (.cmdEntry x y) (c.entryBase ||| f x 0x02 ||| f y 0x01) .tShort ∧
    sends (.cmdDispctl x y z) (c.dispctlBase ||| f x 0x04 ||| f y 0x02 ||| f z 0x01) .tShort ∧
    sends (.cmdFuncset x y z) (c.funcsetBase ||| f x 0x10 ||| f y 0x08 ||| f z 0x04) .tShort ∧
    sends (.cmdSetddram a) (1#1 ++ a) .tShort

/-- With the standard codes the byte a command row sends is its own encoding (30_encoding.md R85 to R91, decision D4). -/
def Obligations.CommandWordsSendTheirEncoding : Prop :=
  ∀ (i : Instr) (s t : State), i.format = .C → s.run.cfg.codes = Config.standardCodes → exec i s = .next t →
    t.busy = false → t.status = .ok →
    ∃ b d, encode i = [b] ∧ t.trace = sendTrace s.run.cfg b false d ∧ (d = .tLong ↔ i = .cmdClear ∨ i = .cmdHome)

/-- 30_encoding.md R90, R93, R81: an initialisation nibble is one pulse with its delay, a data byte is sent with `rs` = 1
unchanged, an expander byte is one register write with no wait (the model's reading, log entries 20 and 21). -/
def Obligations.NibblesDataAndExpanderBytesComplete : Prop :=
  ∀ (s : State) (b : Byte) (n : Nibble) (x y z : Bool), s.busy = false → Answered 4 s →
    exec .nibFs8 s = .next (s.afterOk (pulseTrace s.run.cfg s.run.cfg.codes.nibFs8 false s.run.cfg.backlight ++
      [.d .tInit]) none) ∧
    exec .nibFs4 s = .next (s.afterOk (pulseTrace s.run.cfg s.run.cfg.codes.nibFs4 false s.run.cfg.backlight ++
      [.d .tShort]) none) ∧
    exec (.data b) s = .next (s.afterOk (sendTrace s.run.cfg b true .tShort) none) ∧
    exec (.xbyte n x y z) s = .next (s.afterOk [.w (assembleX n x y z)] none) ∧
    encode (.xbyte n x y z) = [assembleX n x y z]

/-- 30_encoding.md R102 (decision D15): the reserved selectors are refused in every state. -/
def Obligations.ReservedSelectorsRefused : Prop :=
  ∀ s : State, exec .reservedB s = .refused (.reservedSelector 0xB) ∧ exec .reservedC s = .refused (.reservedSelector 0xC) ∧
    exec .reservedD s = .refused (.reservedSelector 0xD) ∧ exec .reservedE s = .refused (.reservedSelector 0xE) ∧
    exec .reservedF s = .refused (.reservedSelector 0xF)

/-! ## Errors, abort, the hang -/

/-- 20_memory.md R66 (decision D23): on a busy instance every start is refused, and a step that starts without waiting is. -/
def Obligations.BusyStartRefused : Prop :=
  ∀ s : State, s.busy = true →
    (∀ i : Instr, ∃ r, exec i s = .refused r) ∧
    (∀ i : Instr, (∃ j, jobOf i s.run = some j) → exec i s = .refused .startWhileBusy) ∧
    (∀ st rest, s.run.host = st :: rest → st.waits = false → ∃ r, step s = .refused r)

/-- 60_exceptions.md R222, 00_scope.md R9: an operation that is delivered ends with `BusError` exactly if a write of it was
refused; that write is the last event of its trace and the only refused one. -/
def Obligations.BusErrorCause : Prop :=
  ∀ (i : Instr) (s t : State), exec i s = .next t →
    (t.busy = false → (t.status = .busError ↔ ∃ v, .wErr v ∈ t.trace)) ∧
    (∀ v, .wErr v ∈ t.trace → t.busy = false ∧ ∃ es, t.trace = es ++ [.wErr v] ∧ ∀ u, .wErr u ∉ es)

/-- 60_exceptions.md R231: the trace of an operation that ended with `BusError` is a prefix of the trace the same operation
would have had with every write succeeding, cut after the write that failed, which is marked. The same operation with
every write succeeding is `exec i` of the state with no answer listed (log entry 3). -/
def Obligations.FailedTraceIsPrefix : Prop :=
  ∀ (i : Instr) (s t u : State), exec i s = .next t → exec i { s with run := { s.run with bus := [] } } = .next u →
    (t.busy = false → t.status = .busError →
      ∃ es v rest, u.trace = es ++ .w v :: rest ∧ t.trace = es ++ [.wErr v]) ∧
    (t.busy = false → t.status ≠ .busError → t.trace = u.trace ∧ t.status = u.status ∧ t.consumed = u.consumed) ∧
    (t.busy = true → ∃ v rest, u.trace = t.trace ++ .w v :: rest ∧ t.stepNo = t.trace.length)

/-- 60_exceptions.md R227: which operation can end in which result. -/
def Obligations.ResultsByOperation : Prop :=
  ∀ (i : Instr) (s t : State), exec i s = .next t → t.busy = false →
    (t.status = .addressOutOfRange → i = .gotoxy) ∧
    (t.status = .malformedControlToken → i = .request ∨ i.format = .Q) ∧
    (t.status = .busError → ¬ (i = .putstr ∧ s.run.operands.s = [])) ∧
    (i ∈ [Instr.nibble, .byte, .init, .clear, .home, .entrymode, .dispctl, .putchar, .putstr] →
      t.status = .ok ∨ t.status = .busError)

/-- 60_exceptions.md R230, R233: after an error the block is idle, holds no protocol state, and accepts any operation. -/
def Obligations.AcceptsNextAfterError : Prop :=
  ∀ (i : Instr) (s t : State), exec i s = .next t → t.busy = false →
    t.stepNo = 0 ∧ t.idx = 0 ∧ t.pb = none ∧ t.ct = none ∧
    ∀ k : Instr, (∃ j, jobOf k t.run = some j) → ∃ u, exec k t = .next u

/-- 60_exceptions.md R246: the only way an operation fails to end is a write that is not answered. With every write answered
an operation ends; a write that is never answered leaves the instance where it is for ever. -/
def Obligations.OnlyUnansweredWritesHang : Prop :=
  (∀ (i : Instr) (s t : State), EveryWriteAnswered s → exec i s = .next t → t.busy = false) ∧
  (∀ (s : State) (as : List BusAnswer), InFlight s → s.busy = true → (∀ st ∈ s.run.host.head?, st.waits = true) →
    (s.run.bus = .never :: as → step s = .next s) ∧
    (s.run.bus = .err :: as → ∃ t v, step s = .next t ∧ t.busy = false ∧ t.status = .busError ∧
      t.trace = s.trace ++ [.wErr v]))

/-- 20_memory.md R52, 60_exceptions.md R246: an answer that comes late changes nothing. If an operation is held at the write
whose answer is late, the next step does what the operation would have done had the answer come at once. -/
def Obligations.LateAnswerChangesNothing : Prop :=
  ∀ (i : Instr) (s t : State) (before after : List BusAnswer), s.run.bus = before ++ .late :: after →
    (∀ a ∈ before, a = .ok) → (∀ st ∈ s.run.host.head?, st.waits = true) → exec i s = .next t → t.busy = true →
    step t = exec i { s with run := { s.run with bus := before ++ after } }

/-- 20_memory.md R52 (decision D17), 10_state.md R29: XREG holds the last byte written with success; after a refused write it
holds that or the refused byte. That it still reads the previous value while a write is not answered (the first clause
when the operation is held) is the model's choice (log entry 7, unsafe). -/
def Obligations.XregHoldsLastWrite : Prop :=
  ∀ (i : Instr) (s t : State), exec i s = .next t →
    ((∀ v, .wErr v ∉ t.trace) → t.xreg = (writesOf t.trace).getLastD s.xreg) ∧
    (∀ v, .wErr v ∈ t.trace → t.xreg = (writesOf t.trace).getLastD s.xreg ∨ t.xreg = v)

/-! ## The whole machine -/

/-- The frame of every instruction: identity, configuration, table and what the host will start are unchanged, the history
only grows, the bus's answers are used from the front; while the operation is in flight OPSEL holds the instruction and
operands, STATUS, CONSUMED and every byte of every space are unchanged; once it has ended the port presents nothing
(10_state.md R20, R21, R25, R26, R36; 20_memory.md R56, R63). The model's choices in it: what the port then reads as (log
entry 4), STATUS and CONSUMED in flight (log entry 33), XREG at a first write that is not answered (log entry 7, unsafe). -/
def Obligations.OperationFrame : Prop :=
  ∀ (i : Instr) (s t : State), exec i s = .next t →
    t.device = s.device ∧ t.run.cfg = s.run.cfg ∧ t.run.host = s.run.host ∧ (∀ n, memRead .lat n t = memRead .lat n s) ∧
    t.past = s.past ++ s.trace ∧ (∃ n, t.run.bus = s.run.bus.drop n) ∧ (t.trace = [] → t.xreg = s.xreg) ∧
    (t.busy = true → t.run.opsel = i ∧ t.run.operands = s.run.operands ∧ t.status = s.status ∧
      t.consumed = s.consumed ∧ ∀ sp n, memRead sp n t = memRead sp n s) ∧
    (t.busy = false → t.run.opsel = idleOpsel ∧ t.run.operands = Operands.zero)

/-- 10_state.md R20: each operation is stateless. What it does depends on the configuration, the operands and the answers of
the bus only. -/
def Obligations.OperationsAreStateless : Prop :=
  ∀ (i : Instr) (s s' t : State), s'.busy = false → s.run.cfg = s'.run.cfg → s.run.operands = s'.run.operands →
    s.run.bus = s'.run.bus → exec i s = .next t →
    ∃ t', exec i s' = .next t' ∧ t'.trace = t.trace ∧ t'.busy = t.busy ∧ t'.stepNo = t.stepNo ∧ t'.idx = t.idx ∧
      t'.pb = t.pb ∧ t'.ct = t.ct ∧ (t.busy = false → t'.status = t.status) ∧ t'.run.bus = t.run.bus

/-- 10_state.md R25, R26, 20_memory.md R56: no operand register keeps a value after the operation ends, and the request is
discarded: a step in which an operation ends, at once or after being held, leaves no byte of a request or string to read
and the port as it is when nothing is presented (what it then reads as is log entry 4). And what a step starts does not
depend on what the port held before. -/
def Obligations.OldOperandsAreNotRead : Prop :=
  (∀ s t : State, step s = .next t → t.busy = false → s.busy = true ∨ s.run.host ≠ [] →
    (∀ n, memRead .req n t = none ∧ memRead .str n t = none) ∧ t.run.operands = State.reset.run.operands ∧
    t.run.opsel = State.reset.run.opsel) ∧
  (∀ (s : State) (o : Operands) (k : Instr), s.busy = false → s.run.host ≠ [] →
    step { s with run := { s.run with operands := o, opsel := k } } = step s)

/-- 10_state.md R23, R24, R27: what PB, CT, IDX and STEP hold while an operation is in flight. -/
def Obligations.TransientRegisters : Prop :=
  ∀ (s : State) (as : List BusAnswer), s.busy = false →
    (s.run.bus = .never :: as → ∃ t, exec .byte s = .next t ∧ t.busy = true ∧ t.stepNo = 0 ∧
      t.pb = some { value := s.run.operands.b, rs := s.run.operands.rs, bl := s.run.operands.bl }) ∧
    (∀ before c after, s.run.operands.s = before ++ c :: after →
      s.run.bus = List.replicate (4 * before.length) .ok ++ .never :: as →
      ∃ t, exec .putstr s = .next t ∧ t.busy = true ∧ t.idx = before.length ∧ t.stepNo = 9 * before.length ∧
        t.pb = some { value := c, rs := true, bl := s.run.cfg.backlight }) ∧
    (∀ k x, s.run.operands.rb = [0x5F, 0x5F, 0x5F, k, x] → 0x31 ≤ k.toNat → k.toNat ≤ 0x34 → s.run.bus = .never :: as →
      ∃ t, exec .request s = .next t ∧ t.busy = true ∧ t.ct = some { kind := .gotoRow, n := k.toNat - 0x30 })

/-- 40_nibble_encoder.md R123, 70_reset_and_hazards.md R270 to R274: the trace of every operation of the port and of every
request that ends with `Ok` is made of whole pulses with both settle waits, and post-write delays. -/
def Obligations.TracesArePaced : Prop :=
  ∀ (i : Instr) (s t : State), i.format = .P ∨ i.format = .Q → exec i s = .next t → t.busy = false → t.status = .ok →
    pacedTrace t.trace = true

/-- A step starts what the host's next start decodes to: with the operands it presents, when the instance is idle or the host
does not wait. -/
def Obligations.StepRunsDecodedInstruction : Prop :=
  ∀ (s : State) (st : Start) (rest : List Start) (i : Instr), s.run.host = st :: rest →
    s.busy = false ∨ st.waits = false → decode st.fmt st.word = .ok i →
    step s = exec i { s with run := { s.run with
      operands := (if st.fmt = .Q then { st.operands with rb := st.word } else st.operands), host := rest } }

/-- 60_exceptions.md R244, 70_reset_and_hazards.md R261: with nothing started an idle block does nothing; a busy one goes on
with its operation before the host's next start; a start whose word is no row of its format is refused by the name of what
is wrong with it (00_scope.md R15, 30_encoding.md R92, R102; log entry 26). -/
def Obligations.StepWithoutStart : Prop :=
  ∀ s : State, (s.busy = false → s.run.host = [] → step s = .next s) ∧
    (s.busy = true → (∀ st ∈ s.run.host.head?, st.waits = true) → step s = resume s) ∧
    (∀ (st : Start) (rest : List Start) (why : Reject), s.run.host = st :: rest → s.busy = false ∨ st.waits = false →
      decode st.fmt st.word = .error why → step s = .refused (.noSuchWord why))

/-- The invariant of the machine (Safety.lean): the table, an idle block without protocol state whose port presents nothing
(log entry 4), STEP, PB, IDX, CT and the trace of an operation in flight, bit 2 clear in every byte written (30_encoding.md
R81), refused writes last. Every step keeps it. -/
def Obligations.StepKeepsInvariant : Prop :=
  ∀ s t : State, Inv s → step s = .next t → Inv t

/-- Reset satisfies the invariant (the table of decision D5). -/
def Obligations.ResetSatisfiesInvariant : Prop := Inv State.reset

/-- 10_state.md R35, 70_reset_and_hazards.md R260, R261 (decision D18): after reset the sequencer is idle, no protocol state
exists, and reset has produced no event and starts nothing; an instance created with any identity and configuration is the
same but for these. At discovery the instance is created so, with the fleet's table (20_memory.md R54), and the others stay;
on an expander that an earlier instance left, the pins stay as they are (log entry 36). At removal (R266) nothing is sent,
the others stay, and every expander's pins keep their level. -/
def Obligations.ResetIsIdle : Prop :=
  (∀ (d : Device) (cfg : Config), step (State.create d cfg) = .next (State.create d cfg) ∧
    (State.create d cfg).history = [] ∧ (State.create d cfg).device = d ∧ (State.create d cfg).run.cfg = cfg ∧
    IdleClean (State.create d cfg) ∧ State.create core.reset.device core.reset.run.cfg = core.reset) ∧
  core.reset.busy = false ∧ core.reset.stepNo = 0 ∧ core.reset.idx = 0 ∧ core.reset.pb = none ∧ core.reset.ct = none ∧
  core.reset.history = [] ∧ core.reset.run.cfg = Config.standard ∧ core.step core.reset = .next core.reset ∧
  (∀ (f g : Fleet) (k bus : Nat) (cfg : Config), f.discover k bus cfg = some g →
    g.state? k = some { State.create { name := .display k, bus := bus, lat := .shared }
      { cfg with lineBase := f.lines } with xreg := (f.pinsAt bus).getD core.reset.xreg } ∧
    g.lines = f.lines ∧ (∀ n, n ≠ k → g.state? n = f.state? n) ∧ ∀ b, b ≠ bus → g.pinsAt b = f.pinsAt b) ∧
  (∀ (f g : Fleet) (k : Nat), f.Inv → f.remove k = some g →
    g.state? k = none ∧ g.lines = f.lines ∧ (∀ n, n ≠ k → g.state? n = f.state? n) ∧ ∀ b, g.pinsAt b = f.pinsAt b)

/-- 60_exceptions.md R239: `T_LONG` is longer than `T_SHORT`, and every duration is positive. -/
def Obligations.LongDelayIsLonger : Prop :=
  Config.duration .tShort < Config.duration .tLong ∧ ∀ t, 0 < Config.duration t

/-- 70_reset_and_hazards.md R280: the least duration of every operation of the port but REQUEST that ended with `Ok`, and of
the command and data bytes run alone (log entry 20), is the sum of the waits in its trace, for whatever the five times are. -/
def Obligations.LeastDurations : Prop :=
  ∀ (i : Instr) (s t : State), exec i s = .next t → t.busy = false → t.status = .ok →
    let least := leastDuration t.trace
    let settle := Config.duration .tEH + Config.duration .tEL
    (i = .nibble → least = settle) ∧
    (i = .byte → least = 2 * settle) ∧
    (i ∈ [Instr.gotoxy, .entrymode, .dispctl, .putchar] → least = 2 * settle + Config.duration .tShort) ∧
    (i ∈ [Instr.clear, .home] → least = 2 * settle + Config.duration .tLong) ∧
    (i = .putstr → least = s.run.operands.s.length * (2 * settle + Config.duration .tShort)) ∧
    (i = .init → least =
      14 * settle + 3 * Config.duration .tInit + 5 * Config.duration .tShort + Config.duration .tLong) ∧
    (i.format = .C ∨ i.format = .D → least = 2 * settle +
      Config.duration (if i = .cmdClear ∨ i = .cmdHome then .tLong else .tShort))

/-- 00_scope.md R6, R14, 20_memory.md R54, R56: the spaces that can be read, and where; two instances read the same values of
the table. -/
def Obligations.SpacesAndBounds : Prop :=
  (∀ (s : State) (n : Nat), memRead .xreg n s = none ∧ ((memRead .lat n s).isSome = true ↔ n < 4) ∧
    ((memRead .req n s).isSome = true ↔ n < s.run.operands.rb.length) ∧
    ((memRead .str n s).isSome = true ↔ n < s.run.operands.s.length) ∧
    memRead .lat 0 s = some s.run.cfg.lineBase.row0 ∧ memRead .lat 1 s = some s.run.cfg.lineBase.row1 ∧
    memRead .lat 2 s = some s.run.cfg.lineBase.row2 ∧ memRead .lat 3 s = some s.run.cfg.lineBase.row3) ∧
  (∀ (f : Fleet) (j k n : Nat) (s t : State), f.Inv → f.state? j = some s → f.state? k = some t →
    memRead .lat n s = memRead .lat n t)

/-- 60_exceptions.md R242, 20_memory.md R54, R67: a step of one instance leaves every other instance as it is, and steps of two
instances need no order between them. Instances share the table and nothing else, each with its own name and bus handle:
an empty fleet is so, and a step, a discovery and a removal keep it (log entries 30 and 36). -/
def Obligations.InstancesAreIndependent : Prop :=
  (∀ (f g : Fleet) (k : Nat), f.stepAt k = .next g →
    (∀ n, n ≠ k → g.state? n = f.state? n) ∧ g.lines = f.lines ∧ g.orphans = f.orphans ∧
    g.members.map Member.ordinal = f.members.map Member.ordinal ∧
    ∀ s, f.state? k = some s → ∃ t, step s = .next t ∧ g.state? k = some t) ∧
  (∀ (f g h : Fleet) (k n : Nat), k ≠ n → f.stepAt k = .next g → f.stepAt n = .next h →
    ∃ u, g.stepAt n = .next u ∧ h.stepAt k = .next u) ∧
  (∀ lines, (Fleet.empty lines).Inv) ∧
  (∀ (f g : Fleet) (k bus : Nat) (cfg : Config), f.Inv →
    (f.stepAt k = .next g → g.Inv) ∧ (f.discover k bus cfg = some g → g.Inv) ∧ (f.remove k = some g → g.Inv))

/-- 70_reset_and_hazards.md R264, 00_scope.md R13: bring-up is INIT, run to its end, and then the banner, whatever it is. If
INIT raises, bring-up ends with that error and sends nothing more; late answers of the bus change nothing of that, and with
every write answered in the end bring-up ends. -/
def Obligations.BringUpSequence : Prop :=
  ∀ s : State, s.busy = false →
    (Answered (28 + 4 * Config.banner.length) s → ∃ t, bringUp s = .next t ∧ t.busy = false ∧ t.status = .ok ∧
      t.history = s.history ++ initTrace s.run.cfg ++ stringTrace s.run.cfg Config.banner) ∧
    (∀ t, bringUp s = .next t → t.busy = false → t.status = .ok →
      t.history = s.history ++ initTrace s.run.cfg ++ stringTrace s.run.cfg Config.banner) ∧
    (∀ t, call .init s = .next t → t.busy = false → t.status ≠ .ok → bringUp s = .next t) ∧
    (∀ t, exec .init s = .next t → t.busy = false → call .init s = .next t) ∧
    (.never ∉ s.run.bus → ∃ t, bringUp s = .next t ∧ t.busy = false ∧ (t.status = .ok ∨ t.status = .busError))
end

