-- ==== Sys2Proof/Laws/State.lean ====
section
/-! SUPPORT. One lemma per field per update of State, true by rfl, so that no proof unfolds a record update. -/

namespace Sys2Proof.Machine

@[simp] theorem Run.release_cfg (r : Run) : r.release.cfg = r.cfg := rfl
@[simp] theorem Run.release_opsel (r : Run) : r.release.opsel = idleOpsel := rfl
@[simp] theorem Run.release_operands (r : Run) : r.release.operands = Operands.zero := rfl
@[simp] theorem Run.release_host (r : Run) : r.release.host = r.host := rfl
@[simp] theorem Run.release_bus (r : Run) : r.release.bus = r.bus := rfl
@[simp] theorem Run.release_release (r : Run) : r.release.release = r.release := rfl
@[simp] theorem State.lineTable_eq (s : State) : s.lineTable = s.run.cfg.lineBase := rfl

@[simp] theorem State.deliver_busy (r : Status) (s : State) : (s.deliver r).busy = false := rfl
@[simp] theorem State.deliver_stepNo (r : Status) (s : State) : (s.deliver r).stepNo = 0 := rfl
@[simp] theorem State.deliver_idx (r : Status) (s : State) : (s.deliver r).idx = 0 := rfl
@[simp] theorem State.deliver_pb (r : Status) (s : State) : (s.deliver r).pb = none := rfl
@[simp] theorem State.deliver_ct (r : Status) (s : State) : (s.deliver r).ct = none := rfl
@[simp] theorem State.deliver_status (r : Status) (s : State) : (s.deliver r).status = r := rfl
@[simp] theorem State.deliver_consumed (r : Status) (s : State) : (s.deliver r).consumed = s.consumed := rfl
@[simp] theorem State.deliver_xreg (r : Status) (s : State) : (s.deliver r).xreg = s.xreg := rfl
@[simp] theorem State.deliver_device (r : Status) (s : State) : (s.deliver r).device = s.device := rfl
@[simp] theorem State.deliver_run (r : Status) (s : State) : (s.deliver r).run = s.run.release := rfl
@[simp] theorem State.deliver_trace (r : Status) (s : State) : (s.deliver r).trace = s.trace := rfl
@[simp] theorem State.deliver_past (r : Status) (s : State) : (s.deliver r).past = s.past := rfl
@[simp] theorem State.deliver_free (r : Status) (s : State) : (s.deliver r).free = s.free := rfl

@[simp] theorem State.dropAnswer_busy (s : State) : s.dropAnswer.busy = s.busy := rfl
@[simp] theorem State.dropAnswer_stepNo (s : State) : s.dropAnswer.stepNo = s.stepNo := rfl
@[simp] theorem State.dropAnswer_idx (s : State) : s.dropAnswer.idx = s.idx := rfl
@[simp] theorem State.dropAnswer_pb (s : State) : s.dropAnswer.pb = s.pb := rfl
@[simp] theorem State.dropAnswer_ct (s : State) : s.dropAnswer.ct = s.ct := rfl
@[simp] theorem State.dropAnswer_status (s : State) : s.dropAnswer.status = s.status := rfl
@[simp] theorem State.dropAnswer_consumed (s : State) : s.dropAnswer.consumed = s.consumed := rfl
@[simp] theorem State.dropAnswer_xreg (s : State) : s.dropAnswer.xreg = s.xreg := rfl
@[simp] theorem State.dropAnswer_device (s : State) : s.dropAnswer.device = s.device := rfl
@[simp] theorem State.dropAnswer_run (s : State) : s.dropAnswer.run = { s.run with bus := s.run.bus.tail } := rfl
@[simp] theorem State.dropAnswer_trace (s : State) : s.dropAnswer.trace = s.trace := rfl
@[simp] theorem State.dropAnswer_past (s : State) : s.dropAnswer.past = s.past := rfl
@[simp] theorem State.dropAnswer_free (s : State) : s.dropAnswer.free = s.free := rfl

@[simp] theorem State.enter_busy (k : Slot) (s : State) : (s.enter k).busy = s.busy := rfl
@[simp] theorem State.enter_stepNo (k : Slot) (s : State) : (s.enter k).stepNo = s.stepNo := rfl
@[simp] theorem State.enter_idx (k : Slot) (s : State) : (s.enter k).idx = k.idx := rfl
@[simp] theorem State.enter_pb (k : Slot) (s : State) : (s.enter k).pb = k.pb := rfl
@[simp] theorem State.enter_ct (k : Slot) (s : State) : (s.enter k).ct = s.ct := rfl
@[simp] theorem State.enter_status (k : Slot) (s : State) : (s.enter k).status = s.status := rfl
@[simp] theorem State.enter_consumed (k : Slot) (s : State) : (s.enter k).consumed = s.consumed := rfl
@[simp] theorem State.enter_xreg (k : Slot) (s : State) : (s.enter k).xreg = s.xreg := rfl
@[simp] theorem State.enter_device (k : Slot) (s : State) : (s.enter k).device = s.device := rfl
@[simp] theorem State.enter_run (k : Slot) (s : State) : (s.enter k).run = s.run := rfl
@[simp] theorem State.enter_trace (k : Slot) (s : State) : (s.enter k).trace = s.trace := rfl
@[simp] theorem State.enter_past (k : Slot) (s : State) : (s.enter k).past = s.past := rfl
@[simp] theorem State.enter_free (k : Slot) (s : State) : (s.enter k).free = s.free := rfl

@[simp] theorem State.emit_busy (e : Event) (s : State) : (s.emit e).busy = s.busy := rfl
@[simp] theorem State.emit_stepNo (e : Event) (s : State) : (s.emit e).stepNo = s.stepNo + 1 := rfl
@[simp] theorem State.emit_idx (e : Event) (s : State) : (s.emit e).idx = s.idx := rfl
@[simp] theorem State.emit_pb (e : Event) (s : State) : (s.emit e).pb = s.pb := rfl
@[simp] theorem State.emit_ct (e : Event) (s : State) : (s.emit e).ct = s.ct := rfl
@[simp] theorem State.emit_status (e : Event) (s : State) : (s.emit e).status = s.status := rfl
@[simp] theorem State.emit_consumed (e : Event) (s : State) : (s.emit e).consumed = s.consumed := rfl
@[simp] theorem State.emit_xreg (e : Event) (s : State) : (s.emit e).xreg = s.xreg := rfl
@[simp] theorem State.emit_device (e : Event) (s : State) : (s.emit e).device = s.device := rfl
@[simp] theorem State.emit_run (e : Event) (s : State) : (s.emit e).run = s.run := rfl
@[simp] theorem State.emit_trace (e : Event) (s : State) : (s.emit e).trace = s.trace ++ [e] := rfl
@[simp] theorem State.emit_past (e : Event) (s : State) : (s.emit e).past = s.past := rfl
@[simp] theorem State.emit_free (e : Event) (s : State) : (s.emit e).free = s.free := rfl

@[simp] theorem State.begin_busy (i : Instr) (c : Option ControlToken) (s : State) : (s.begin i c).busy = true := rfl
@[simp] theorem State.begin_stepNo (i : Instr) (c : Option ControlToken) (s : State) : (s.begin i c).stepNo = 0 := rfl
@[simp] theorem State.begin_idx (i : Instr) (c : Option ControlToken) (s : State) : (s.begin i c).idx = 0 := rfl
@[simp] theorem State.begin_pb (i : Instr) (c : Option ControlToken) (s : State) : (s.begin i c).pb = none := rfl
@[simp] theorem State.begin_ct (i : Instr) (c : Option ControlToken) (s : State) : (s.begin i c).ct = c := rfl
@[simp] theorem State.begin_status (i : Instr) (c : Option ControlToken) (s : State) : (s.begin i c).status = s.status := rfl
@[simp] theorem State.begin_consumed (i : Instr) (c : Option ControlToken) (s : State) : (s.begin i c).consumed = s.consumed := rfl
@[simp] theorem State.begin_xreg (i : Instr) (c : Option ControlToken) (s : State) : (s.begin i c).xreg = s.xreg := rfl
@[simp] theorem State.begin_device (i : Instr) (c : Option ControlToken) (s : State) : (s.begin i c).device = s.device := rfl
@[simp] theorem State.begin_run (i : Instr) (c : Option ControlToken) (s : State) : (s.begin i c).run = { s.run with opsel := i } := rfl
@[simp] theorem State.begin_trace (i : Instr) (c : Option ControlToken) (s : State) : (s.begin i c).trace = [] := rfl
@[simp] theorem State.begin_past (i : Instr) (c : Option ControlToken) (s : State) : (s.begin i c).past = s.past ++ s.trace := rfl
@[simp] theorem State.begin_free (i : Instr) (c : Option ControlToken) (s : State) : (s.begin i c).free = s.free := rfl

@[simp] theorem State.latch_busy (st : Start) (rest : List Start) (s : State) : (s.latch st rest).busy = s.busy := rfl
@[simp] theorem State.latch_stepNo (st : Start) (rest : List Start) (s : State) : (s.latch st rest).stepNo = s.stepNo := rfl
@[simp] theorem State.latch_idx (st : Start) (rest : List Start) (s : State) : (s.latch st rest).idx = s.idx := rfl
@[simp] theorem State.latch_pb (st : Start) (rest : List Start) (s : State) : (s.latch st rest).pb = s.pb := rfl
@[simp] theorem State.latch_ct (st : Start) (rest : List Start) (s : State) : (s.latch st rest).ct = s.ct := rfl
@[simp] theorem State.latch_status (st : Start) (rest : List Start) (s : State) : (s.latch st rest).status = s.status := rfl
@[simp] theorem State.latch_consumed (st : Start) (rest : List Start) (s : State) : (s.latch st rest).consumed = s.consumed := rfl
@[simp] theorem State.latch_xreg (st : Start) (rest : List Start) (s : State) : (s.latch st rest).xreg = s.xreg := rfl
@[simp] theorem State.latch_device (st : Start) (rest : List Start) (s : State) : (s.latch st rest).device = s.device := rfl
@[simp] theorem State.latch_run (st : Start) (rest : List Start) (s : State) : (s.latch st rest).run = { s.run with operands := st.presents, host := rest } := rfl
@[simp] theorem State.latch_trace (st : Start) (rest : List Start) (s : State) : (s.latch st rest).trace = s.trace := rfl
@[simp] theorem State.latch_past (st : Start) (rest : List Start) (s : State) : (s.latch st rest).past = s.past := rfl
@[simp] theorem State.latch_free (st : Start) (rest : List Start) (s : State) : (s.latch st rest).free = s.free := rfl

@[simp] theorem State.prepend_busy (st : Start) (s : State) : (s.prepend st).busy = false := rfl
@[simp] theorem State.prepend_stepNo (st : Start) (s : State) : (s.prepend st).stepNo = s.stepNo := rfl
@[simp] theorem State.prepend_idx (st : Start) (s : State) : (s.prepend st).idx = s.idx := rfl
@[simp] theorem State.prepend_pb (st : Start) (s : State) : (s.prepend st).pb = s.pb := rfl
@[simp] theorem State.prepend_ct (st : Start) (s : State) : (s.prepend st).ct = s.ct := rfl
@[simp] theorem State.prepend_status (st : Start) (s : State) : (s.prepend st).status = s.status := rfl
@[simp] theorem State.prepend_consumed (st : Start) (s : State) : (s.prepend st).consumed = s.consumed := rfl
@[simp] theorem State.prepend_xreg (st : Start) (s : State) : (s.prepend st).xreg = s.xreg := rfl
@[simp] theorem State.prepend_device (st : Start) (s : State) : (s.prepend st).device = s.device := rfl
@[simp] theorem State.prepend_run (st : Start) (s : State) : (s.prepend st).run = { s.run with host := st :: s.run.host } := rfl
@[simp] theorem State.prepend_trace (st : Start) (s : State) : (s.prepend st).trace = s.trace := rfl
@[simp] theorem State.prepend_past (st : Start) (s : State) : (s.prepend st).past = s.past := rfl
@[simp] theorem State.prepend_free (st : Start) (s : State) : (s.prepend st).free = s.free := rfl

@[simp] theorem State.presentString_busy (x : Bytes) (s : State) : (s.presentString x).busy = s.busy := rfl
@[simp] theorem State.presentString_stepNo (x : Bytes) (s : State) : (s.presentString x).stepNo = s.stepNo := rfl
@[simp] theorem State.presentString_idx (x : Bytes) (s : State) : (s.presentString x).idx = s.idx := rfl
@[simp] theorem State.presentString_pb (x : Bytes) (s : State) : (s.presentString x).pb = s.pb := rfl
@[simp] theorem State.presentString_ct (x : Bytes) (s : State) : (s.presentString x).ct = s.ct := rfl
@[simp] theorem State.presentString_status (x : Bytes) (s : State) : (s.presentString x).status = s.status := rfl
@[simp] theorem State.presentString_consumed (x : Bytes) (s : State) : (s.presentString x).consumed = s.consumed := rfl
@[simp] theorem State.presentString_xreg (x : Bytes) (s : State) : (s.presentString x).xreg = s.xreg := rfl
@[simp] theorem State.presentString_device (x : Bytes) (s : State) : (s.presentString x).device = s.device := rfl
@[simp] theorem State.presentString_run (x : Bytes) (s : State) : (s.presentString x).run = { s.run with operands := { s.run.operands with s := x } } := rfl
@[simp] theorem State.presentString_trace (x : Bytes) (s : State) : (s.presentString x).trace = s.trace := rfl
@[simp] theorem State.presentString_past (x : Bytes) (s : State) : (s.presentString x).past = s.past := rfl
@[simp] theorem State.presentString_free (x : Bytes) (s : State) : (s.presentString x).free = s.free := rfl

@[simp] theorem wait_busy (t : WaitClass) (s : State) : (wait t s).busy = s.busy := rfl
@[simp] theorem wait_stepNo (t : WaitClass) (s : State) : (wait t s).stepNo = s.stepNo + 1 := rfl
@[simp] theorem wait_idx (t : WaitClass) (s : State) : (wait t s).idx = s.idx := rfl
@[simp] theorem wait_pb (t : WaitClass) (s : State) : (wait t s).pb = s.pb := rfl
@[simp] theorem wait_ct (t : WaitClass) (s : State) : (wait t s).ct = s.ct := rfl
@[simp] theorem wait_status (t : WaitClass) (s : State) : (wait t s).status = s.status := rfl
@[simp] theorem wait_consumed (t : WaitClass) (s : State) : (wait t s).consumed = s.consumed := rfl
@[simp] theorem wait_xreg (t : WaitClass) (s : State) : (wait t s).xreg = s.xreg := rfl
@[simp] theorem wait_device (t : WaitClass) (s : State) : (wait t s).device = s.device := rfl
@[simp] theorem wait_run (t : WaitClass) (s : State) : (wait t s).run = s.run := rfl
@[simp] theorem wait_trace (t : WaitClass) (s : State) : (wait t s).trace = s.trace ++ [.d t] := rfl
@[simp] theorem wait_past (t : WaitClass) (s : State) : (wait t s).past = s.past := rfl
@[simp] theorem wait_free (t : WaitClass) (s : State) : (wait t s).free = s.free := rfl

@[simp] theorem busWriteOk_busy (v : Byte) (s : State) : (busWriteOk v s).busy = s.busy := rfl
@[simp] theorem busWriteOk_stepNo (v : Byte) (s : State) : (busWriteOk v s).stepNo = s.stepNo + 1 := rfl
@[simp] theorem busWriteOk_idx (v : Byte) (s : State) : (busWriteOk v s).idx = s.idx := rfl
@[simp] theorem busWriteOk_pb (v : Byte) (s : State) : (busWriteOk v s).pb = s.pb := rfl
@[simp] theorem busWriteOk_ct (v : Byte) (s : State) : (busWriteOk v s).ct = s.ct := rfl
@[simp] theorem busWriteOk_status (v : Byte) (s : State) : (busWriteOk v s).status = s.status := rfl
@[simp] theorem busWriteOk_consumed (v : Byte) (s : State) : (busWriteOk v s).consumed = s.consumed := rfl
@[simp] theorem busWriteOk_xreg (v : Byte) (s : State) : (busWriteOk v s).xreg = v := rfl
@[simp] theorem busWriteOk_device (v : Byte) (s : State) : (busWriteOk v s).device = s.device := rfl
@[simp] theorem busWriteOk_run (v : Byte) (s : State) : (busWriteOk v s).run = { s.run with bus := s.run.bus.tail } := rfl
@[simp] theorem busWriteOk_trace (v : Byte) (s : State) : (busWriteOk v s).trace = s.trace ++ [.w v] := rfl
@[simp] theorem busWriteOk_past (v : Byte) (s : State) : (busWriteOk v s).past = s.past := rfl
@[simp] theorem busWriteOk_free (v : Byte) (s : State) : (busWriteOk v s).free = s.free := rfl

@[simp] theorem busWriteErr_busy (v : Byte) (s : State) : (busWriteErr v s).busy = s.busy := rfl
@[simp] theorem busWriteErr_stepNo (v : Byte) (s : State) : (busWriteErr v s).stepNo = s.stepNo + 1 := rfl
@[simp] theorem busWriteErr_idx (v : Byte) (s : State) : (busWriteErr v s).idx = s.idx := rfl
@[simp] theorem busWriteErr_pb (v : Byte) (s : State) : (busWriteErr v s).pb = s.pb := rfl
@[simp] theorem busWriteErr_ct (v : Byte) (s : State) : (busWriteErr v s).ct = s.ct := rfl
@[simp] theorem busWriteErr_status (v : Byte) (s : State) : (busWriteErr v s).status = s.status := rfl
@[simp] theorem busWriteErr_consumed (v : Byte) (s : State) : (busWriteErr v s).consumed = s.consumed := rfl
@[simp] theorem busWriteErr_xreg (v : Byte) (s : State) : (busWriteErr v s).xreg = if Config.failedWriteLands s.device.bus s.free then v else s.xreg := rfl
@[simp] theorem busWriteErr_device (v : Byte) (s : State) : (busWriteErr v s).device = s.device := rfl
@[simp] theorem busWriteErr_run (v : Byte) (s : State) : (busWriteErr v s).run = { s.run with bus := s.run.bus.tail } := rfl
@[simp] theorem busWriteErr_trace (v : Byte) (s : State) : (busWriteErr v s).trace = s.trace ++ [.wErr v] := rfl
@[simp] theorem busWriteErr_past (v : Byte) (s : State) : (busWriteErr v s).past = s.past := rfl
@[simp] theorem busWriteErr_free (v : Byte) (s : State) : (busWriteErr v s).free = s.free + 1 := rfl

@[simp] theorem finishOk_busy (c : Option Nat) (s : State) : (finishOk c s).busy = false := rfl
@[simp] theorem finishOk_stepNo (c : Option Nat) (s : State) : (finishOk c s).stepNo = 0 := rfl
@[simp] theorem finishOk_idx (c : Option Nat) (s : State) : (finishOk c s).idx = 0 := rfl
@[simp] theorem finishOk_pb (c : Option Nat) (s : State) : (finishOk c s).pb = none := rfl
@[simp] theorem finishOk_ct (c : Option Nat) (s : State) : (finishOk c s).ct = none := rfl
@[simp] theorem finishOk_status (c : Option Nat) (s : State) : (finishOk c s).status = .ok := rfl
@[simp] theorem finishOk_consumed (c : Option Nat) (s : State) : (finishOk c s).consumed = consumedAfter c s.consumed := rfl
@[simp] theorem finishOk_xreg (c : Option Nat) (s : State) : (finishOk c s).xreg = s.xreg := rfl
@[simp] theorem finishOk_device (c : Option Nat) (s : State) : (finishOk c s).device = s.device := rfl
@[simp] theorem finishOk_run (c : Option Nat) (s : State) : (finishOk c s).run = s.run.release := rfl
@[simp] theorem finishOk_trace (c : Option Nat) (s : State) : (finishOk c s).trace = s.trace := rfl
@[simp] theorem finishOk_past (c : Option Nat) (s : State) : (finishOk c s).past = s.past := rfl
@[simp] theorem finishOk_free (c : Option Nat) (s : State) : (finishOk c s).free = s.free := rfl

end Sys2Proof.Machine
end

