-- ==== Sys2Proof/Laws/Ops.lean ====
section
/-! SUPPORT. What running an operation can do, said once: `drive_ok`, `drive_busError`, `drive_stalled` and the case analysis
`drive_cases`. Later proofs cite these and never unfold `drive`. -/

namespace Sys2Proof.Machine

/-! ## Traces -/

/-- The events of some steps, all successful. -/
def eventsOf (p : List Slot) : List Event := p.map fun k => k.act.event

@[simp] theorem eventsOf_nil : eventsOf [] = [] := rfl
@[simp] theorem eventsOf_cons (k : Slot) (p : List Slot) : eventsOf (k :: p) = k.act.event :: eventsOf p := rfl
@[simp] theorem eventsOf_append (p q : List Slot) : eventsOf (p ++ q) = eventsOf p ++ eventsOf q := List.map_append
@[simp] theorem eventsOf_length (p : List Slot) : (eventsOf p).length = p.length := List.length_map ..

@[simp] theorem Act.event_write (v : Byte) : (Act.write v).event = .w v := rfl
@[simp] theorem Act.event_wait (t : WaitClass) : (Act.wait t).event = .d t := rfl

@[simp] theorem writesOf_nil : writesOf [] = [] := rfl
@[simp] theorem writesOf_w (v : Byte) (es : List Event) : writesOf (.w v :: es) = v :: writesOf es := rfl
@[simp] theorem writesOf_wErr (v : Byte) (es : List Event) : writesOf (.wErr v :: es) = writesOf es := rfl
@[simp] theorem writesOf_d (t : WaitClass) (es : List Event) : writesOf (.d t :: es) = writesOf es := rfl

@[simp] theorem writesOf_append (a b : List Event) : writesOf (a ++ b) = writesOf a ++ writesOf b := by
  induction a with
  | nil => rfl
  | cons e es ih => cases e <;> simp [ih]

/-- How many register writes some steps make. -/
def writeCount (p : List Slot) : Nat := (writesOf (eventsOf p)).length

@[simp] theorem writeCount_nil : writeCount [] = 0 := rfl
@[simp] theorem writeCount_write (v : Byte) (pb : Option ProtocolByte) (ix : Nat) (p : List Slot) :
    writeCount (⟨.write v, pb, ix⟩ :: p) = writeCount p + 1 := by simp [writeCount]
@[simp] theorem writeCount_wait (t : WaitClass) (pb : Option ProtocolByte) (ix : Nat) (p : List Slot) :
    writeCount (⟨.wait t, pb, ix⟩ :: p) = writeCount p := by simp [writeCount]
@[simp] theorem writeCount_append (p q : List Slot) : writeCount (p ++ q) = writeCount p + writeCount q := by
  simp [writeCount]

@[simp] theorem xregAfter_nil (old : Byte) : xregAfter old [] = old := rfl

theorem xregAfter_append (old : Byte) (a b : List Event) :
    xregAfter old (a ++ b) = xregAfter (xregAfter old a) b := by
  unfold xregAfter
  rw [writesOf_append]
  cases h : writesOf b with
  | nil => simp
  | cons v vs => simp [List.getLastD_eq_getLast?]

/-! ## Steps that succeed -/

/-- The effect of one step that succeeds. -/
def State.perform (k : Slot) (s : State) : State :=
  match k.act with
  | .wait t => wait t (s.enter k)
  | .write v => busWriteOk v (s.enter k)

/-- The effect of some steps that all succeed. -/
def State.performAll (p : List Slot) (s : State) : State := p.foldl (fun u k => u.perform k) s

@[simp] theorem State.performAll_nil (s : State) : s.performAll [] = s := rfl
@[simp] theorem State.performAll_cons (k : Slot) (p : List Slot) (s : State) :
    s.performAll (k :: p) = (s.perform k).performAll p := rfl
@[simp] theorem State.performAll_append (p q : List Slot) (s : State) :
    s.performAll (p ++ q) = (s.performAll p).performAll q := List.foldl_append ..

/-- All that steps which succeed do, field by field. -/
theorem State.performAll_eq (p : List Slot) (s : State) :
    s.performAll p =
      { s with
        pb := (p.getLast?.map Slot.pb).getD s.pb, idx := (p.getLast?.map Slot.idx).getD s.idx,
        stepNo := s.stepNo + p.length, trace := s.trace ++ eventsOf p, xreg := xregAfter s.xreg (eventsOf p),
        run := { s.run with bus := s.run.bus.drop (writeCount p) } } := by
  induction p generalizing s with
  | nil => simp
  | cons k p ih =>
    obtain ⟨a, pb, ix⟩ := k
    rw [performAll_cons, ih]
    cases a with
    | wait t =>
      cases p with
      | nil => simp [perform, wait, State.emit, State.enter, xregAfter]
      | cons m q =>
        have hl := List.getLast?_eq_some_getLast (l := m :: q) (by simp)
        simp [hl, perform, wait, State.emit, State.enter, xregAfter, List.getLast?_cons_cons, Nat.add_comm,
          Nat.add_left_comm]
    | write v =>
      have hx : ∀ es, xregAfter v es = xregAfter s.xreg (.w v :: es) := fun es => by
        rw [show Event.w v :: es = [.w v] ++ es from rfl, xregAfter_append]; rfl
      cases p with
      | nil => simp [perform, busWriteOk, State.emit, State.enter, State.dropAnswer, xregAfter]
      | cons m q =>
        have hl := List.getLast?_eq_some_getLast (l := m :: q) (by simp)
        simp [hl, perform, busWriteOk, State.emit, State.enter, State.dropAnswer, hx, List.getLast?_cons_cons,
          Nat.add_comm, Nat.add_left_comm, List.drop_tail]

@[simp] theorem State.performAll_busy (p : List Slot) (s : State) : (s.performAll p).busy = s.busy := by
  rw [performAll_eq]
@[simp] theorem State.performAll_ct (p : List Slot) (s : State) : (s.performAll p).ct = s.ct := by rw [performAll_eq]
@[simp] theorem State.performAll_status (p : List Slot) (s : State) : (s.performAll p).status = s.status := by
  rw [performAll_eq]
@[simp] theorem State.performAll_consumed (p : List Slot) (s : State) : (s.performAll p).consumed = s.consumed := by
  rw [performAll_eq]
@[simp] theorem State.performAll_device (p : List Slot) (s : State) : (s.performAll p).device = s.device := by
  rw [performAll_eq]
@[simp] theorem State.performAll_past (p : List Slot) (s : State) : (s.performAll p).past = s.past := by
  rw [performAll_eq]
@[simp] theorem State.performAll_free (p : List Slot) (s : State) : (s.performAll p).free = s.free := by
  rw [performAll_eq]
@[simp] theorem State.performAll_trace (p : List Slot) (s : State) :
    (s.performAll p).trace = s.trace ++ eventsOf p := by rw [performAll_eq]
@[simp] theorem State.performAll_stepNo (p : List Slot) (s : State) :
    (s.performAll p).stepNo = s.stepNo + p.length := by rw [performAll_eq]
@[simp] theorem State.performAll_xreg (p : List Slot) (s : State) :
    (s.performAll p).xreg = xregAfter s.xreg (eventsOf p) := by rw [performAll_eq]
@[simp] theorem State.performAll_run (p : List Slot) (s : State) :
    (s.performAll p).run = { s.run with bus := s.run.bus.drop (writeCount p) } := by rw [performAll_eq]

/-! ## Answers -/

theorem Answered.mono {m n : Nat} {s : State} (h : Answered n s) (hm : m ≤ n) : Answered m s := by
  intro a ha
  exact h a (List.take_subset_take_left _ hm ha)

theorem answered_perform {k : Slot} {p : List Slot} {s : State} (h : Answered (writeCount (k :: p)) s) :
    Answered (writeCount p) (s.perform k) := by
  obtain ⟨a, pb, ix⟩ := k
  cases a with
  | wait t => simpa [State.perform, Answered] using h
  | write v =>
    rw [writeCount_write] at h
    intro a ha
    refine h a ?_
    simp only [State.perform, busWriteOk_run, State.enter_run] at ha
    cases hb : s.run.bus with
    | nil => simp [hb] at ha
    | cons b bs => simp only [hb, List.tail_cons] at ha; simp [ha]

theorem answer_ok {n : Nat} {s : State} (h : Answered (n + 1) s) : s.answer = .ok := by
  unfold State.answer
  cases hb : s.run.bus with
  | nil => rfl
  | cons b bs => exact h b (by simp [hb])

/-! ## Running -/

@[simp] theorem drive_nil (c : Option Nat) (s : State) : drive c [] s = finishOk c s := rfl

@[simp] theorem drive_wait (c : Option Nat) (t : WaitClass) (pb : Option ProtocolByte) (ix : Nat) (ks : List Slot)
    (s : State) : drive c (⟨.wait t, pb, ix⟩ :: ks) s = drive c ks (s.perform ⟨.wait t, pb, ix⟩) := rfl

theorem drive_write_ok (c : Option Nat) (v : Byte) (pb : Option ProtocolByte) (ix : Nat) (ks : List Slot) (s : State)
    (h : s.answer = .ok) : drive c (⟨.write v, pb, ix⟩ :: ks) s = drive c ks (s.perform ⟨.write v, pb, ix⟩) := by
  simp only [drive, h, State.perform]

/-- Steps whose writes all succeed are performed, and the rest goes on from there. -/
theorem drive_append (c : Option Nat) (p q : List Slot) (s : State) (h : Answered (writeCount p) s) :
    drive c (p ++ q) s = drive c q (s.performAll p) := by
  induction p generalizing s with
  | nil => rfl
  | cons k p ih =>
    have h' := answered_perform h
    obtain ⟨a, pb, ix⟩ := k
    cases a with
    | wait t => exact ih _ h'
    | write v =>
      rw [writeCount_write] at h
      rw [List.cons_append, drive_write_ok c v pb ix _ s (answer_ok h)]
      exact ih _ h'

/-- Every write answered `ok`: the operation ends with `Ok`. -/
theorem drive_ok (c : Option Nat) (p : List Slot) (s : State) (h : Answered (writeCount p) s) :
    drive c p s = finishOk c (s.performAll p) := by
  have := drive_append c p [] s h
  simpa using this

/-- The write the bus refuses: `BusError`, and nothing after it. -/
theorem drive_busError (c : Option Nat) (q : List Slot) (k : Slot) (v : Byte) (s : State) (hk : k.act = .write v)
    (h : s.answer = .err) : drive c (k :: q) s = raiseError .busError (busWriteErr v (s.enter k)) := by
  simp only [drive, hk, h]

/-- The write the bus has not answered yet. -/
theorem drive_late (c : Option Nat) (q : List Slot) (k : Slot) (v : Byte) (s : State) (hk : k.act = .write v)
    (h : s.answer = .late) : drive c (k :: q) s = (s.enter k).dropAnswer := by
  simp only [drive, hk, h]

/-- The write the bus never answers. -/
theorem drive_never (c : Option Nat) (q : List Slot) (k : Slot) (v : Byte) (s : State) (hk : k.act = .write v)
    (h : s.answer = .never) : drive c (k :: q) s = s.enter k := by
  simp only [drive, hk, h]

/-- All that running some steps can do: every write succeeds, or there is a first one that does not. -/
theorem drive_cases (c : Option Nat) (p : List Slot) (s : State) :
    (Answered (writeCount p) s ∧ drive c p s = finishOk c (s.performAll p)) ∨
    ∃ pre k v post, p = pre ++ k :: post ∧ k.act = .write v ∧ Answered (writeCount pre) s ∧
      (((s.performAll pre).answer = .err ∧
          drive c p s = raiseError .busError (busWriteErr v ((s.performAll pre).enter k))) ∨
       ((s.performAll pre).answer = .late ∧ drive c p s = ((s.performAll pre).enter k).dropAnswer) ∨
       ((s.performAll pre).answer = .never ∧ drive c p s = (s.performAll pre).enter k)) := by
  induction p generalizing s with
  | nil => exact .inl ⟨by simp [Answered], rfl⟩
  | cons k p ih =>
    obtain ⟨a, pb, ix⟩ := k
    cases a with
    | wait t =>
      rcases ih (s.perform ⟨.wait t, pb, ix⟩) with ⟨ha, hd⟩ | ⟨pre, k, v, post, rfl, hk, ha, hd⟩
      · exact .inl ⟨by simpa [Answered, State.perform] using ha, hd⟩
      · refine .inr ⟨⟨.wait t, pb, ix⟩ :: pre, k, v, post, rfl, hk, ?_, hd⟩
        simpa [Answered, State.perform] using ha
    | write v =>
      cases hans : s.answer with
      | ok =>
        have hcons : ∀ q, Answered (writeCount q) (s.perform ⟨.write v, pb, ix⟩) →
            Answered (writeCount (⟨.write v, pb, ix⟩ :: q)) s := by
          intro q hq a ha
          rw [writeCount_write] at ha
          cases hb : s.run.bus with
          | nil => simp [hb] at ha
          | cons b bs =>
            simp only [hb, List.take_succ_cons, List.mem_cons] at ha
            rcases ha with rfl | ha
            · simpa [State.answer, hb] using hans
            · exact hq a (by simpa [State.perform, hb] using ha)
        rcases ih (s.perform ⟨.write v, pb, ix⟩) with ⟨ha, hd⟩ | ⟨pre, k, w, post, rfl, hk, ha, hd⟩
        · refine .inl ⟨hcons p ha, ?_⟩
          rw [drive_write_ok c v pb ix p s hans, hd]; rfl
        · refine .inr ⟨⟨.write v, pb, ix⟩ :: pre, k, w, post, rfl, hk, hcons pre ha, ?_⟩
          rw [drive_write_ok c v pb ix _ s hans]; exact hd
      | err => exact .inr ⟨[], _, v, p, rfl, rfl, by simp [Answered], .inl ⟨hans, drive_busError c p _ v s rfl hans⟩⟩
      | late => exact .inr ⟨[], _, v, p, rfl, rfl, by simp [Answered], .inr (.inl ⟨hans, drive_late c p _ v s rfl hans⟩)⟩
      | never => exact .inr ⟨[], _, v, p, rfl, rfl, by simp [Answered], .inr (.inr ⟨hans, drive_never c p _ v s rfl hans⟩)⟩

/-! ## The spaces -/

/-- `memRead` depends on the table and the operand registers only. -/
theorem memRead_congr (sp : Space) (n : Nat) {s t : State} (hc : s.run.cfg = t.run.cfg)
    (ho : s.run.operands = t.run.operands) : memRead sp n s = memRead sp n t := by
  cases sp <;> simp [memRead, hc, ho]

end Sys2Proof.Machine
end

