-- ==== Sys2Proof/Laws/Traces.lean ====
section
/-! SUPPORT. The expansions of the operations as traces: what each leaves when every write succeeds, and how many writes it
makes. -/

namespace Sys2Proof.Machine

@[simp] theorem writeCount_nibble (cfg : Config) (pb : Option ProtocolByte) (ix : Nat) (v : Nibble) (rs bl : Bool) :
    writeCount (nibbleSlots cfg pb ix v rs bl) = 2 := rfl
@[simp] theorem writeCount_byte (cfg : Config) (ix : Nat) (b : Byte) (rs bl : Bool) :
    writeCount (byteSlots cfg ix b rs bl) = 4 := rfl
@[simp] theorem writeCount_send (cfg : Config) (ix : Nat) (b : Byte) (rs : Bool) (t : WaitClass) :
    writeCount (sendSlots cfg ix b rs t) = 4 := rfl
@[simp] theorem writeCount_pulse (cfg : Config) (v : Nibble) (t : WaitClass) :
    writeCount (pulseSlots cfg v t) = 2 := rfl
@[simp] theorem writeCount_init (cfg : Config) : writeCount (initSlots cfg) = 28 := by simp [initSlots]
@[simp] theorem writeCount_putstr (cfg : Config) (ix : Nat) (x : Bytes) :
    writeCount (putstrSlots cfg ix x) = 4 * x.length := by
  induction x generalizing ix with
  | nil => rfl
  | cons c cs ih => simp [putstrSlots, putcharSlots, ih]; omega

@[simp] theorem eventsOf_nibble (cfg : Config) (pb : Option ProtocolByte) (ix : Nat) (v : Nibble) (rs bl : Bool) :
    eventsOf (nibbleSlots cfg pb ix v rs bl) = pulseTrace cfg v rs bl := rfl
@[simp] theorem eventsOf_byte (cfg : Config) (ix : Nat) (b : Byte) (rs bl : Bool) :
    eventsOf (byteSlots cfg ix b rs bl) = byteTrace cfg b rs bl := rfl
@[simp] theorem eventsOf_send (cfg : Config) (ix : Nat) (b : Byte) (rs : Bool) (t : WaitClass) :
    eventsOf (sendSlots cfg ix b rs t) = sendTrace cfg b rs t := rfl
@[simp] theorem eventsOf_pulse (cfg : Config) (v : Nibble) (t : WaitClass) :
    eventsOf (pulseSlots cfg v t) = pulseDelayTrace cfg v t := rfl
@[simp] theorem eventsOf_init (cfg : Config) : eventsOf (initSlots cfg) = initTrace cfg := by
  simp [initSlots, initTrace]
@[simp] theorem eventsOf_putstr (cfg : Config) (ix : Nat) (x : Bytes) :
    eventsOf (putstrSlots cfg ix x) = stringTrace cfg x := by
  induction x generalizing ix with
  | nil => rfl
  | cons c cs ih => simp [putstrSlots, putcharSlots, stringTrace, ih] at *

/-- Only the position in the string differs between the characters of two strings. -/
theorem writesOf_eventsOf_length (p : List Slot) : (writesOf (eventsOf p)).length = writeCount p := rfl

end Sys2Proof.Machine
end

