-- ==== Sys2Proof/Laws/Exec.lean ====
section
/-! SUPPORT. What `exec` and `step` can do, said once: `exec_eq` (every meaning is the start of its expansion), the case analysis
`exec_cases`, and the cases of a step. -/

namespace Sys2Proof.Machine

/-- The state of an operation held at the step `k`, a write that is not answered: the steps `pre` are done. -/
def State.heldAt (i : Instr) (c : Option ControlToken) (pre : List Slot) (k : Slot) (bus : List BusAnswer) (s : State) :
    State :=
  { s with
    busy := true, stepNo := pre.length, idx := k.idx, pb := k.pb, ct := c, xreg := xregAfter s.xreg (eventsOf pre),
    trace := eventsOf pre, past := s.past ++ s.trace, run := { s.run with opsel := i, bus := bus } }

/-- Every meaning is the start of its expansion; only the reserved selectors have none. -/
theorem exec_eq {i : Instr} {j : Job} {s : State} (h : jobOf i s.run = some j) : exec i s = startJob i j s := by
  cases i <;> simp [jobOf] at h <;> subst h <;> rfl

/-- The reserved selectors are refused. -/
theorem exec_reserved {i : Instr} {s : State} (h : jobOf i s.run = none) : ∃ n, exec i s = .refused (.reservedSelector n) := by
  cases i <;> simp [jobOf] at h <;> exact ⟨_, rfl⟩

@[simp] theorem jobOf_opsel (i k : Instr) (r : Run) : jobOf i { r with opsel := k } = jobOf i r := by
  cases i <;> rfl
@[simp] theorem jobOf_bus (i : Instr) (b : List BusAnswer) (r : Run) : jobOf i { r with bus := b } = jobOf i r := by
  cases i <;> rfl
@[simp] theorem jobOf_host (i : Instr) (b : List Start) (r : Run) : jobOf i { r with host := b } = jobOf i r := by
  cases i <;> rfl

theorem jobOf_congr (i : Instr) {r r' : Run} (hc : r.cfg = r'.cfg) (ho : r.operands = r'.operands) :
    jobOf i r = jobOf i r' := by
  obtain ⟨_, _, _, _, _⟩ := r
  obtain ⟨_, _, _, _, _⟩ := r'
  simp only at hc ho
  subst hc ho
  cases i <;> rfl

theorem startJob_busy (i : Instr) (j : Job) {s : State} (h : s.busy = true) :
    startJob i j s = .refused .startWhileBusy := by simp [startJob, h]

theorem startJob_check (i : Instr) (j : Job) (e : Status) {s : State} (h : s.busy = false) (hb : j.body = .error e) :
    startJob i j s = .next (s.afterCheck e) := by
  simp [startJob, h, hb, raiseError, State.deliver, State.begin, State.afterCheck, Run.release]

theorem startJob_ok (i : Instr) (j : Job) (p : List Slot) {s : State} (h : s.busy = false) (hb : j.body = .ok p)
    (ha : Answered (writeCount p) s) : startJob i j s = .next (s.afterOk (eventsOf p) j.count) := by
  have ha' : Answered (writeCount p) (s.begin i j.ct) := ha
  simp only [startJob, h, hb, drive_ok _ _ _ ha']
  simp [State.performAll_eq, finishOk, State.deliver, State.begin, State.afterOk, writeCount, Run.release]

theorem startJob_busError (i : Instr) (j : Job) (pre post : List Slot) (k : Slot) (v : Byte) {s : State}
    (h : s.busy = false) (hb : j.body = .ok (pre ++ k :: post)) (hk : k.act = .write v)
    (ha : Answered (writeCount pre) s) (he : (s.run.bus.drop (writeCount pre)).headD .ok = .err) :
    startJob i j s = .next (s.afterBusError (eventsOf pre) v) := by
  have ha' : Answered (writeCount pre) (s.begin i j.ct) := ha
  have he' : ((s.begin i j.ct).performAll pre).answer = .err := by simpa [State.answer] using he
  simp only [startJob, h, hb, drive_append _ _ _ _ ha', drive_busError _ _ _ _ _ hk he']
  simp [State.performAll_eq, raiseError, busWriteErr, State.deliver, State.begin, State.afterBusError, State.enter,
    State.emit, State.dropAnswer, writeCount, Run.release]

theorem startJob_late (i : Instr) (j : Job) (pre post : List Slot) (k : Slot) (v : Byte) {s : State}
    (h : s.busy = false) (hb : j.body = .ok (pre ++ k :: post)) (hk : k.act = .write v)
    (ha : Answered (writeCount pre) s) (he : (s.run.bus.drop (writeCount pre)).headD .ok = .late) :
    startJob i j s = .next (s.heldAt i j.ct pre k (s.run.bus.drop (writeCount pre + 1))) := by
  have ha' : Answered (writeCount pre) (s.begin i j.ct) := ha
  have he' : ((s.begin i j.ct).performAll pre).answer = .late := by simpa [State.answer] using he
  simp only [startJob, h, hb, drive_append _ _ _ _ ha', drive_late _ _ _ _ _ hk he']
  simp [State.performAll_eq, State.begin, State.heldAt, State.enter, State.dropAnswer]

theorem startJob_never (i : Instr) (j : Job) (pre post : List Slot) (k : Slot) (v : Byte) {s : State}
    (h : s.busy = false) (hb : j.body = .ok (pre ++ k :: post)) (hk : k.act = .write v)
    (ha : Answered (writeCount pre) s) (he : (s.run.bus.drop (writeCount pre)).headD .ok = .never) :
    startJob i j s = .next (s.heldAt i j.ct pre k (s.run.bus.drop (writeCount pre))) := by
  have ha' : Answered (writeCount pre) (s.begin i j.ct) := ha
  have he' : ((s.begin i j.ct).performAll pre).answer = .never := by simpa [State.answer] using he
  simp only [startJob, h, hb, drive_append _ _ _ _ ha', drive_never _ _ _ _ _ hk he']
  simp [State.performAll_eq, State.begin, State.heldAt, State.enter]

/-- All that an operation can do, from an idle state. -/
theorem startJob_cases (i : Instr) (j : Job) {s t : State} (h : startJob i j s = .next t) :
    s.busy = false ∧
    ((∃ e, j.body = .error e ∧ t = s.afterCheck e) ∨
     (∃ p, j.body = .ok p ∧ Answered (writeCount p) s ∧ t = s.afterOk (eventsOf p) j.count) ∨
     (∃ pre k v post, j.body = .ok (pre ++ k :: post) ∧ k.act = .write v ∧ Answered (writeCount pre) s ∧
       (((s.run.bus.drop (writeCount pre)).headD .ok = .err ∧ t = s.afterBusError (eventsOf pre) v) ∨
        ((s.run.bus.drop (writeCount pre)).headD .ok = .late ∧
          t = s.heldAt i j.ct pre k (s.run.bus.drop (writeCount pre + 1))) ∨
        ((s.run.bus.drop (writeCount pre)).headD .ok = .never ∧
          t = s.heldAt i j.ct pre k (s.run.bus.drop (writeCount pre)))))) := by
  cases hbusy : s.busy with
  | true => simp [startJob_busy i j hbusy] at h
  | false =>
    refine ⟨rfl, ?_⟩
    cases hb : j.body with
    | error e =>
      rw [startJob_check i j e hbusy hb] at h
      exact .inl ⟨e, rfl, (Host.Outcome.next.inj h).symm⟩
    | ok p =>
      rcases drive_cases j.count p (s.begin i j.ct) with ⟨ha, -⟩ | ⟨pre, k, v, post, rfl, hk, ha, hd⟩
      · rw [startJob_ok i j p hbusy hb ha] at h
        exact .inr (.inl ⟨p, rfl, ha, (Host.Outcome.next.inj h).symm⟩)
      · refine .inr (.inr ⟨pre, k, v, post, rfl, hk, ha, ?_⟩)
        rcases hd with ⟨he, -⟩ | ⟨he, -⟩ | ⟨he, -⟩
        · have he' : (s.run.bus.drop (writeCount pre)).headD .ok = .err := by simpa [State.answer] using he
          rw [startJob_busError i j pre post k v hbusy hb hk ha he'] at h
          exact .inl ⟨he', (Host.Outcome.next.inj h).symm⟩
        · have he' : (s.run.bus.drop (writeCount pre)).headD .ok = .late := by simpa [State.answer] using he
          rw [startJob_late i j pre post k v hbusy hb hk ha he'] at h
          exact .inr (.inl ⟨he', (Host.Outcome.next.inj h).symm⟩)
        · have he' : (s.run.bus.drop (writeCount pre)).headD .ok = .never := by simpa [State.answer] using he
          rw [startJob_never i j pre post k v hbusy hb hk ha he'] at h
          exact .inr (.inr ⟨he', (Host.Outcome.next.inj h).symm⟩)

/-- A next state comes from an expansion. -/
theorem exec_next_job {i : Instr} {s t : State} (h : exec i s = .next t) :
    ∃ j, jobOf i s.run = some j ∧ startJob i j s = .next t := by
  cases hj : jobOf i s.run with
  | none => obtain ⟨n, hn⟩ := exec_reserved hj; simp [hn] at h
  | some j => exact ⟨j, rfl, by rw [← exec_eq hj, h]⟩

/-- All that an instruction can do, if it answers a next state. -/
theorem exec_cases {i : Instr} {s t : State} (h : exec i s = .next t) :
    s.busy = false ∧ ∃ j, jobOf i s.run = some j ∧
    ((∃ e, j.body = .error e ∧ t = s.afterCheck e) ∨
     (∃ p, j.body = .ok p ∧ Answered (writeCount p) s ∧ t = s.afterOk (eventsOf p) j.count) ∨
     (∃ pre k v post, j.body = .ok (pre ++ k :: post) ∧ k.act = .write v ∧ Answered (writeCount pre) s ∧
       (((s.run.bus.drop (writeCount pre)).headD .ok = .err ∧ t = s.afterBusError (eventsOf pre) v) ∨
        ((s.run.bus.drop (writeCount pre)).headD .ok = .late ∧
          t = s.heldAt i j.ct pre k (s.run.bus.drop (writeCount pre + 1))) ∨
        ((s.run.bus.drop (writeCount pre)).headD .ok = .never ∧
          t = s.heldAt i j.ct pre k (s.run.bus.drop (writeCount pre)))))) := by
  obtain ⟨j, hj, hs⟩ := exec_next_job h
  obtain ⟨hb, hc⟩ := startJob_cases i j hs
  exact ⟨hb, j, hj, hc⟩

/-- An operation ends with `Ok` when the writes it makes are answered `ok`. -/
theorem exec_ok {i : Instr} {j : Job} {p : List Slot} {s : State} (hj : jobOf i s.run = some j) (hb : j.body = .ok p)
    (hs : s.busy = false) (ha : Answered (writeCount p) s) :
    exec i s = .next (s.afterOk (eventsOf p) j.count) := by
  rw [exec_eq hj]; exact startJob_ok i j p hs hb ha

/-- An operation whose check fails ends there. -/
theorem exec_check {i : Instr} {j : Job} {e : Status} {s : State} (hj : jobOf i s.run = some j) (hb : j.body = .error e)
    (hs : s.busy = false) : exec i s = .next (s.afterCheck e) := by
  rw [exec_eq hj]; exact startJob_check i j e hs hb

/-! ## Steps -/

/-- A step of an idle instance to which the host starts nothing. -/
theorem step_idle {s : State} (hh : s.run.host = []) (hb : s.busy = false) : step s = .next s := by
  simp [step, advance, goOn, hh, hb]

/-- A step of a busy instance whose host keeps its duty. -/
theorem step_resume {s : State} (hb : s.busy = true) (hh : ∀ st ∈ s.run.host.head?, st.waits = true) :
    step s = resume s := by
  cases hl : s.run.host with
  | nil => simp [step, advance, goOn, hl, hb]
  | cons st rest =>
    have : st.waits = true := hh st (by simp [hl])
    simp [step, advance, hl, hb, this]

/-- A step that starts an instruction. -/
theorem step_launch {s : State} {st : Start} {rest : List Start} {i : Instr} (hh : s.run.host = st :: rest)
    (hr : s.busy = false ∨ st.waits = false) (hd : decode st.fmt st.word = .ok i) :
    step s = exec i (s.latch st rest) := by
  have : (s.busy && st.waits) = false := by rcases hr with h | h <;> simp [h]
  simp [step, advance, hh, this, launch, hd]

/-- All that a step can do, if it answers a next state. -/
theorem step_cases {s t : State} (h : step s = .next t) :
    (s.busy = false ∧ s.run.host = [] ∧ t = s) ∨
    (s.busy = true ∧ resume s = .next t) ∨
    ∃ st rest i, s.run.host = st :: rest ∧ s.busy = false ∧ decode st.fmt st.word = .ok i ∧
      exec i (s.latch st rest) = .next t := by
  cases hl : s.run.host with
  | nil =>
    cases hb : s.busy with
    | false =>
      rw [step_idle hl hb] at h
      exact .inl ⟨rfl, rfl, (Host.Outcome.next.inj h).symm⟩
    | true =>
      rw [step_resume hb (by simp [hl])] at h
      exact .inr (.inl ⟨rfl, h⟩)
  | cons st rest =>
    by_cases hr : (s.busy && st.waits) = true
    · have hb : s.busy = true := by simp at hr; exact hr.1
      simp only [step, advance, hl, hr, if_true] at h
      exact .inr (.inl ⟨hb, h⟩)
    · have hr' : (s.busy && st.waits) = false := by simpa using hr
      simp only [step, advance, hl, hr', launch] at h
      cases hd : decode st.fmt st.word with
      | error e => simp [hd] at h
      | ok i =>
        simp only [hd] at h
        have hb : s.busy = false := (exec_cases h).1
        exact .inr (.inr ⟨st, rest, i, rfl, hb, hd, h⟩)

/-! ## Going on with an operation in flight -/

/-- An operation held at a write goes on as the rest of its steps. -/
theorem resume_held {s : State} {i : Instr} {j : Job} {pre post : List Slot} {k : Slot} {v : Byte}
    (ho : s.run.opsel = i) (hj : jobOf i s.run = some j) (hb : j.body = .ok (pre ++ k :: post))
    (hk : k.act = .write v) (hn : s.stepNo = pre.length) :
    resume s = .next (drive j.count (k :: post) s) := by
  obtain ⟨a, pb, ix⟩ := k
  simp only at hk
  subst hk
  simp [resume, ho, hj, resumeJob, hb, hn]

/-- Going on does nothing where no operation is in flight. -/
theorem runToEnd_idle (n : Nat) {s : State} (h : s.busy = false) : runToEnd n s = .next s := by
  cases n <;> simp [runToEnd, h]

/-- A call whose operation ends at once is that operation. -/
theorem call_delivered {i : Instr} {s t : State} (h : exec i s = .next t) (hb : t.busy = false) : call i s = .next t := by
  simp only [call, h]; exact runToEnd_idle _ hb

/-- Bring-up whose two operations end at once, INIT with `Ok`. -/
theorem bringUp_delivered {s t u : State} (hi : exec .init s = .next t) (hb : t.busy = false) (ho : t.status = .ok)
    (hp : exec .putstr (t.presentString Config.banner) = .next u) (hu : u.busy = false) : bringUp s = .next u := by
  simp [bringUp, call_delivered hi hb, hb, ho, call_delivered hp hu]

end Sys2Proof.Machine
end

