-- ==== Sys2Proof/Laws/Checks.lean ====
section
/-! SUPPORT. Which checks can fail, said once: the marker test, the error an expansion can carry, and how many tokens there
are. -/

namespace Sys2Proof.Machine

/-- A text begins with the marker exactly if it is the marker followed by something. -/
theorem beginsWithMarker_iff {x : Bytes} : beginsWithMarker x = true ↔ ∃ tl, x = Config.marker ++ tl := by
  constructor
  · intro h
    match x with
    | [] | [_] | [_, _] => simp [beginsWithMarker] at h
    | a :: b :: c :: tl =>
      simp only [beginsWithMarker, Bool.and_eq_true, beq_iff_eq] at h
      obtain ⟨⟨rfl, rfl⟩, rfl⟩ := h
      exact ⟨tl, rfl⟩
  · rintro ⟨tl, rfl⟩; rfl

/-- GOTOXY's check fails only on a row of 4 or more. -/
theorem gotoxyBody_error {cfg : Config} {col row : Byte} {e : Status} (h : gotoxyBody cfg col row = .error e) :
    e = .addressOutOfRange ∧ 4 ≤ row.toNat := by
  unfold gotoxyBody at h
  split at h
  · cases h
  · cases h; exact ⟨rfl, by simpa using ‹¬ row.toNat < Config.rows›⟩

/-- A token of a digit is never rejected (43_dispatcher.md R198). -/
theorem tokenBody_ok (cfg : Config) (n : Nat) (hn : n ≤ 9) : ∃ p, tokenBody cfg (tokenOf n) = .ok p := by
  by_cases h0 : n = 0
  · exact ⟨clearSlots cfg, by simp [tokenOf, tokenBody, h0]⟩
  · by_cases h4 : n ≤ 4
    · have hr : (BitVec.ofNat 8 (n - 1)).toNat < Config.rows := by
        rw [BitVec.toNat_ofNat, Nat.mod_eq_of_lt (by omega)]
        exact Nat.lt_of_lt_of_le (Nat.sub_lt (Nat.pos_of_ne_zero h0) Nat.one_pos) h4
      exact ⟨_, by simp only [tokenOf, tokenBody, h0, h4, if_true, if_false, gotoxyBody]; exact dif_pos hr⟩
    · exact ⟨putstrSlots cfg 0 Config.invalidMsg, by simp [tokenOf, tokenBody, h0, h4]⟩

/-- All that a request can expand to: it is rejected, or it is a token, or a literal text. -/
theorem requestJob_cases (cfg : Config) (rb : Bytes) :
    (requestJob cfg rb = .rejected .malformedControlToken ∧
      (rb = [] ∨ ∃ tl t, rb = Config.marker ++ tl ++ [t] ∧ ¬ ∃ k : Byte, tl = [k] ∧ 0x30 ≤ k.toNat ∧ k.toNat ≤ 0x39)) ∨
    (∃ k t n, rb = Config.marker ++ [k] ++ [t] ∧ k.toNat = 0x30 + n ∧ n ≤ 9 ∧
      requestJob cfg rb = tokenJob cfg n 5) ∨
    (∃ text t, rb = text ++ [t] ∧ (¬ ∃ tl, text = Config.marker ++ tl) ∧
      requestJob cfg rb = textJob cfg text (text.length + 1)) := by
  rcases List.eq_nil_or_concat rb with rfl | ⟨text, t, rfl⟩
  · exact .inl ⟨rfl, .inl rfl⟩
  · by_cases hm : beginsWithMarker text = true
    · obtain ⟨tl, rfl⟩ := beginsWithMarker_iff.1 hm
      by_cases hk : ∃ k : Byte, tl = [k] ∧ 0x30 ≤ k.toNat ∧ k.toNat ≤ 0x39
      · obtain ⟨k, rfl, h1, h2⟩ := hk
        refine .inr (.inl ⟨k, t, k.toNat - 0x30, by simp, by omega, by omega, ?_⟩)
        have hk' : ¬ (k.toNat < 48 ∨ 57 < k.toNat) := by omega
        simp only [requestJob, List.concat_eq_append, List.dropLast_concat, hm]
        simp [Config.marker, hk']
      · refine .inl ⟨?_, .inr ⟨tl, t, by simp, hk⟩⟩
        simp only [requestJob, List.concat_eq_append, List.dropLast_concat, hm]
        match tl with
        | [] | _ :: _ :: _ => simp [Config.marker]
        | [k] =>
          have hk' : k.toNat < 48 ∨ 57 < k.toNat := by
            by_contra hc
            exact hk ⟨k, rfl, by omega, by omega⟩
          simp [Config.marker, hk']
    · refine .inr (.inr ⟨text, t, by simp, fun h => hm (beginsWithMarker_iff.2 h), ?_⟩)
      simp [requestJob, hm]

/-- All the errors an expansion can carry: a check of GOTOXY, or of a request. -/
theorem job_error {i : Instr} {r : Run} {j : Job} {e : Status} (hj : jobOf i r = some j) (he : j.body = .error e) :
    (e = .addressOutOfRange ∧ i = .gotoxy ∧ 4 ≤ r.operands.row.toNat) ∨
    (e = .malformedControlToken ∧ (i = .request ∨ i = .reqEmpty ∨ ∃ tl t, i = .reqMalformed tl t)) := by
  cases i <;> simp only [jobOf, Option.some.injEq, reduceCtorEq] at hj <;> subst hj
  case gotoxy => exact .inl ⟨(gotoxyBody_error he).1, rfl, (gotoxyBody_error he).2⟩
  case request =>
    simp only [jobRequest] at he
    rcases requestJob_cases r.cfg r.operands.rb with ⟨h, -⟩ | ⟨k, t, n, -, -, hn, h⟩ | ⟨x, t, -, -, h⟩
    · rw [h] at he; cases he; exact .inr ⟨rfl, .inl rfl⟩
    · rw [h] at he
      obtain ⟨p, hp⟩ := tokenBody_ok r.cfg n hn
      simp [tokenJob, hp] at he
    · rw [h] at he; cases he
  case reqMalformed tl t => cases he; exact .inr ⟨rfl, .inr (.inr ⟨tl, t, rfl⟩)⟩
  case reqEmpty => cases he; exact .inr ⟨rfl, .inr (.inl rfl)⟩
  all_goals cases he

/-- No check raises a bus error. -/
theorem job_error_ne_busError {i : Instr} {r : Run} {j : Job} {e : Status} (hj : jobOf i r = some j)
    (he : j.body = .error e) : e ≠ .busError ∧ e ≠ .ok := by
  rcases job_error hj he with ⟨rfl, -⟩ | ⟨rfl, -⟩ <;> simp

/-- An operation that ended with `Ok` has left the events of its whole expansion. -/
theorem exec_trace_of_ok {i : Instr} {s t : State} (h : exec i s = .next t) (hb : t.busy = false) (ho : t.status = .ok) :
    ∃ j p, jobOf i s.run = some j ∧ j.body = .ok p ∧ t.trace = eventsOf p := by
  obtain ⟨-, j, hj, ⟨e, he, rfl⟩ | ⟨p, hp, -, rfl⟩ | ⟨_, _, _, _, -, -, -, ⟨-, rfl⟩ | ⟨-, rfl⟩ | ⟨-, rfl⟩⟩⟩ := exec_cases h
  · exact absurd ho (job_error_ne_busError hj he).2
  · exact ⟨j, p, hj, hp, rfl⟩
  · cases ho
  all_goals cases hb

/-- A refused write never stands among the events of steps that succeeded. -/
theorem wErr_not_mem_eventsOf (p : List Slot) (v : Byte) : Event.wErr v ∉ eventsOf p := by
  simp only [eventsOf, List.mem_map, not_exists, not_and]
  rintro ⟨a, _, _⟩ -
  cases a <;> simp

end Sys2Proof.Machine
end

