-- ==== Sys2Proof/Laws/PerInstr.lean ====
section
/-! SUPPORT. Statements made per instruction (LAWS.json). Family `EncodedLength`: how many bytes an encoding has (30_encoding.md
R80). -/

namespace Sys2Proof.Laws.EncodedLength

/-- The length of an encoding is that of its format: one word, or, for a request, the whole buffer: five bytes for a token of one
digit, the text or the tail and what the form adds to it otherwise (R80, R94, R96, R102). -/
def Statement (i : Instr) : Prop :=
  (i.format ≠ .Q → (encode i).length = 1) ∧
  (i.format = .Q → (encode i).length =
    match i with
    | .reqText text _ => text.length + 1
    | .reqMalformed tail _ => tail.length + 4
    | .reqEmpty => 0
    | _ => 5)

theorem nibble : Statement .nibble := by
  simp [Statement, Instr.format, encode]

theorem byte : Statement .byte := by
  simp [Statement, Instr.format, encode]

theorem init : Statement .init := by
  simp [Statement, Instr.format, encode]

theorem clear : Statement .clear := by
  simp [Statement, Instr.format, encode]

theorem home : Statement .home := by
  simp [Statement, Instr.format, encode]

theorem gotoxy : Statement .gotoxy := by
  simp [Statement, Instr.format, encode]

theorem entrymode : Statement .entrymode := by
  simp [Statement, Instr.format, encode]

theorem dispctl : Statement .dispctl := by
  simp [Statement, Instr.format, encode]

theorem putchar : Statement .putchar := by
  simp [Statement, Instr.format, encode]

theorem putstr : Statement .putstr := by
  simp [Statement, Instr.format, encode]

theorem request : Statement .request := by
  simp [Statement, Instr.format, encode]

theorem reservedB : Statement .reservedB := by
  simp [Statement, Instr.format, encode]

theorem reservedC : Statement .reservedC := by
  simp [Statement, Instr.format, encode]

theorem reservedD : Statement .reservedD := by
  simp [Statement, Instr.format, encode]

theorem reservedE : Statement .reservedE := by
  simp [Statement, Instr.format, encode]

theorem reservedF : Statement .reservedF := by
  simp [Statement, Instr.format, encode]

theorem reqClear (t : Byte) : Statement (.reqClear t) := by
  simp [Statement, Instr.format, encode, Config.marker]

theorem reqGotoRow1 (t : Byte) : Statement (.reqGotoRow1 t) := by
  simp [Statement, Instr.format, encode, Config.marker]

theorem reqGotoRow2 (t : Byte) : Statement (.reqGotoRow2 t) := by
  simp [Statement, Instr.format, encode, Config.marker]

theorem reqGotoRow3 (t : Byte) : Statement (.reqGotoRow3 t) := by
  simp [Statement, Instr.format, encode, Config.marker]

theorem reqGotoRow4 (t : Byte) : Statement (.reqGotoRow4 t) := by
  simp [Statement, Instr.format, encode, Config.marker]

theorem reqInvalid5 (t : Byte) : Statement (.reqInvalid5 t) := by
  simp [Statement, Instr.format, encode, Config.marker]

theorem reqInvalid6 (t : Byte) : Statement (.reqInvalid6 t) := by
  simp [Statement, Instr.format, encode, Config.marker]

theorem reqInvalid7 (t : Byte) : Statement (.reqInvalid7 t) := by
  simp [Statement, Instr.format, encode, Config.marker]

theorem reqInvalid8 (t : Byte) : Statement (.reqInvalid8 t) := by
  simp [Statement, Instr.format, encode, Config.marker]

theorem reqInvalid9 (t : Byte) : Statement (.reqInvalid9 t) := by
  simp [Statement, Instr.format, encode, Config.marker]

theorem reqText (text : Bytes) (t : Byte) : Statement (.reqText text t) := by
  simp [Statement, Instr.format, encode]

theorem reqMalformed (tail : Bytes) (t : Byte) : Statement (.reqMalformed tail t) := by
  simp [Statement, Instr.format, encode, Config.marker]

theorem reqEmpty : Statement .reqEmpty := by
  simp [Statement, Instr.format, encode]

theorem cmdClear : Statement .cmdClear := by
  simp [Statement, Instr.format, encode]

theorem cmdHome : Statement .cmdHome := by
  simp [Statement, Instr.format, encode]

theorem cmdEntry (id sh : Bool) : Statement (.cmdEntry id sh) := by
  simp [Statement, Instr.format, encode]

theorem cmdDispctl (on cur blk : Bool) : Statement (.cmdDispctl on cur blk) := by
  simp [Statement, Instr.format, encode]

theorem cmdFuncset (dl n f : Bool) : Statement (.cmdFuncset dl n f) := by
  simp [Statement, Instr.format, encode]

theorem cmdSetddram (a : BitVec 7) : Statement (.cmdSetddram a) := by
  simp [Statement, Instr.format, encode]

theorem nibFs8 : Statement .nibFs8 := by
  simp [Statement, Instr.format, encode]

theorem nibFs4 : Statement .nibFs4 := by
  simp [Statement, Instr.format, encode]

theorem data (c : Byte) : Statement (.data c) := by
  simp [Statement, Instr.format, encode]

theorem xbyte (d : Nibble) (bl e rs : Bool) : Statement (.xbyte d bl e rs) := by
  simp [Statement, Instr.format, encode]

end Sys2Proof.Laws.EncodedLength
end

