-- ==== Sys2Proof/Tests/Slice0.lean ====
section
/-! SUPPORT. The model's own tests and the witnesses of its statements' hypotheses. Expected values are the spec's: the encodings
of 30_encoding.md, the vectors of 95_test_vectors.md (named V-… and P… in the comments). -/

namespace Sys2Proof.Tests

open Sys2Proof Sys2Proof.Machine

/-! ## Helpers -/

/-- An idle instance after reset, with the operands `o` presented and the answers `bus` to come. -/
def st (o : Operands) (bus : List BusAnswer) : State :=
  { State.reset with run := { State.reset.run with operands := o, bus := bus } }

/-- No operand. -/
def o0 : Operands := Operands.zero

/-- The same instance with the placement `straight`. -/
def straight (s : State) : State :=
  { s with run := { s.run with cfg := { s.run.cfg with placement := .straight } } }

/-- What a test looks at: the trace, the result, BUSY. -/
def seen : Host.Outcome State Fault Refusal → Option (List Event × Status × Bool)
  | .next s => some (s.trace, s.status, s.busy)
  | _ => none

/-- The result and the count. -/
def result : Host.Outcome State Fault Refusal → Option (Status × Nat)
  | .next s => some (s.status, s.consumed)
  | _ => none

/-- The bytes written with success. -/
def writes : Host.Outcome State Fault Refusal → List Byte
  | .next s => writesOf s.trace
  | _ => []

/-- A pair of writes `a b` stands for `W(a) D(T_EH) W(b) D(T_EL)` (42_command_layer.md R154). -/
def pulses : List Byte → List Event
  | a :: b :: bs => [.w a, .d .tEH, .w b, .d .tEL] ++ pulses bs
  | _ => []

/-- Bytes or single nibbles, each with the delay after it. -/
def sent : List (List Byte × WaitClass) → List Event
  | [] => []
  | (bs, t) :: rest => pulses bs ++ (.d t :: sent rest)

/-- What a failed operation has sent in full, what of the next byte, and the write that failed. -/
def cut (full : List (List Byte × WaitClass)) (part : List Event) (v : Byte) : Option (List Event × Status × Bool) :=
  some (sent full ++ (part ++ [.wErr v]), .busError, false)

/-- `Ok` with trace `es`. -/
def ok (es : List Event) : Option (List Event × Status × Bool) := some (es, .ok, false)

/-! ## Well-formedness (30_encoding.md R94, R96) -/

theorem test_wf_text_refuses_marker : (Instr.reqText [0x5F, 0x5F, 0x5F, 0x30] 0x00).wellFormed = false := by decide
theorem test_wf_text_refuses_marker_alone : (Instr.reqText [0x5F, 0x5F, 0x5F] 0x00).wellFormed = false := by decide
theorem test_wf_text_two_underscores : (Instr.reqText [0x5F, 0x5F] 0x00).wellFormed = true := by decide
theorem test_wf_malformed_refuses_digit : (Instr.reqMalformed [0x30] 0x00).wellFormed = false := by decide
theorem test_wf_malformed_refuses_nine : (Instr.reqMalformed [0x39] 0x00).wellFormed = false := by decide
theorem test_wf_malformed_colon : (Instr.reqMalformed [0x3A] 0x00).wellFormed = true := by decide

/-! ## Decoding: words written out from the spec's encodings -/

/-- The selectors (R99, R102). -/
theorem test_decode_P :
    [0x0, 0x1, 0x2, 0x3, 0x4, 0x5, 0x6, 0x7, 0x8, 0x9, 0xA, 0xB, 0xC, 0xD, 0xE, 0xF].map
      (fun w => (decode .P [w]).toOption) =
    [some .nibble, some .byte, some .init, some .clear, some .home, some .gotoxy, some .entrymode, some .dispctl,
     some .putchar, some .putstr, some .request, some .reservedB, some .reservedC, some .reservedD, some .reservedE,
     some .reservedF] := by decide
theorem test_decode_P_rejects : decode .P [0x10] = .error .notASelector ∧ decode .P [0x0, 0x0] = .error .wrongLength := by
  decide

/-- `0011` and `0010` (R90). -/
theorem test_decode_N : decode .N [0b0011] = .ok .nibFs8 ∧ decode .N [0b0010] = .ok .nibFs4 ∧
    decode .N [0b0100] = .error .notAnInitNibble := by decide

/-- The command bytes (R85 to R91), bit by bit. -/
theorem test_decode_C : decode .C [0b00000001] = .ok .cmdClear ∧ decode .C [0b00000010] = .ok .cmdHome ∧
    decode .C [0b00000110] = .ok (.cmdEntry true false) ∧ decode .C [0b00000101] = .ok (.cmdEntry false true) ∧
    decode .C [0b00001100] = .ok (.cmdDispctl true false false) ∧
    decode .C [0b00001010] = .ok (.cmdDispctl false true false) ∧
    decode .C [0b00001001] = .ok (.cmdDispctl false false true) ∧
    decode .C [0b00110000] = .ok (.cmdFuncset true false false) ∧
    decode .C [0b00101000] = .ok (.cmdFuncset false true false) ∧
    decode .C [0b00100100] = .ok (.cmdFuncset false false true) ∧
    decode .C [0b11000000] = .ok (.cmdSetddram 0b1000000) ∧ decode .C [0b10000001] = .ok (.cmdSetddram 0b0000001) := by
  decide
theorem test_decode_C_rejects : decode .C [0x00] = .error .unusedCommand ∧ decode .C [0x03] = .error .unusedCommand ∧
    decode .C [0x21] = .error .unusedCommand ∧ decode .C [0x10] = .error .shiftClass ∧
    decode .C [0x1F] = .error .shiftClass ∧ decode .C [0x40] = .error .cgramClass ∧
    decode .C [0x7F] = .error .cgramClass := by decide

/-- Any byte (R93); `ddddb0er` (R81). -/
theorem test_decode_D_X : decode .D [0x0A] = .ok (.data 0x0A) ∧
    decode .X [0b11001010] = .ok (.xbyte 0b1100 true true false) ∧
    decode .X [0b00010001] = .ok (.xbyte 0b0001 false false true) ∧ decode .X [0b00000100] = .error .zeroBitSet := by decide

/-- The tokens (R97), with any terminator (R98). -/
theorem test_decode_Q_tokens :
    [0x30, 0x31, 0x32, 0x33, 0x34, 0x35, 0x36, 0x37, 0x38, 0x39].map
      (fun k => (decode .Q [0x5F, 0x5F, 0x5F, k, 0x0A]).toOption) =
    [some (.reqClear 0x0A), some (.reqGotoRow1 0x0A), some (.reqGotoRow2 0x0A), some (.reqGotoRow3 0x0A),
     some (.reqGotoRow4 0x0A), some (.reqInvalid5 0x0A), some (.reqInvalid6 0x0A), some (.reqInvalid7 0x0A),
     some (.reqInvalid8 0x0A), some (.reqInvalid9 0x0A)] := by decide
/-- The open forms (R94, R96, R102; V-Q10, V-Q13, V-Q15, V-Q25). -/
theorem test_decode_Q_open : decode .Q [] = .ok .reqEmpty ∧ decode .Q [0x41] = .ok (.reqText [] 0x41) ∧
    decode .Q [0x5F, 0x5F, 0x31, 0x00] = .ok (.reqText [0x5F, 0x5F, 0x31] 0x00) ∧
    decode .Q [0x5F, 0x5F, 0x5F, 0x00] = .ok (.reqMalformed [] 0x00) ∧
    decode .Q [0x5F, 0x5F, 0x5F, 0x78, 0x00] = .ok (.reqMalformed [0x78] 0x00) ∧
    decode .Q [0x5F, 0x5F, 0x5F, 0x2F, 0x00] = .ok (.reqMalformed [0x2F] 0x00) ∧
    decode .Q [0x5F, 0x5F, 0x5F, 0x3A, 0x00] = .ok (.reqMalformed [0x3A] 0x00) ∧
    decode .Q [0x5F, 0x5F, 0x5F, 0x31, 0x32, 0x00] = .ok (.reqMalformed [0x31, 0x32] 0x00) := by decide

/-- The opcode table's words (log entry 24): bytes most significant first. -/
theorem test_table_words : decodeTableWord 8 0x05 = some .gotoxy ∧ decodeTableWord 8 0xC0 = some (.cmdSetddram 0x40) ∧
    decodeTableWord 40 0x5F5F5F3200 = some (.reqGotoRow2 0x00) ∧
    decodeTableWord 24 0x5F5F5F = some (.reqMalformed [] 0x00) ∧ decodeTableWord 0 0 = some .reqEmpty := by decide
/-- ... and a step from reset runs them. -/
theorem test_fetch_word : seen (step (State.reset.withFetchWord 40 0x5F5F5F3000)) =
    ok (sent [([0x0A, 0x08, 0x8A, 0x88], .tLong)]) := by decide

/-! ## NIBBLE and BYTE -/

/-- V-N5 and V-N3. -/
theorem test_nibble : seen (exec .nibble (st { o0 with v := 0xA, rs := true, bl := true } [])) =
    ok (pulses [0x5B, 0x59]) := by decide
theorem test_nibble_straight : seen (exec .nibble (straight (st { o0 with v := 0x3, bl := true } []))) =
    ok (pulses [0x3A, 0x38]) := by decide
/-- V-F2. -/
theorem test_nibble_fails : seen (exec .nibble (st { o0 with v := 0xA, rs := true, bl := true } [.ok, .err])) =
    cut [] [.w 0x5B, .d .tEH] 0x59 := by decide
/-- V-B6 under both placements. -/
theorem test_byte : seen (exec .byte (st { o0 with b := 0x48, rs := true, bl := true } [])) =
    ok (pulses [0x2B, 0x29, 0x1B, 0x19]) := by decide
theorem test_byte_straight : seen (exec .byte (straight (st { o0 with b := 0x48, rs := true, bl := true } []))) =
    ok (pulses [0x4B, 0x49, 0x8B, 0x89]) := by decide
/-- V-F5. -/
theorem test_byte_fails : seen (exec .byte (st { o0 with b := 0xA5, rs := true, bl := true } [.ok, .ok, .err])) =
    cut [] (pulses [0x5B, 0x59]) 0xAB := by decide

/-! ## The Command Layer -/

/-- V-I1. -/
theorem test_init : seen (exec .init (st o0 [])) = ok (sent [
    ([0xCA, 0xC8], .tInit), ([0xCA, 0xC8], .tInit), ([0xCA, 0xC8], .tInit), ([0x4A, 0x48], .tShort),
    ([0x4A, 0x48, 0x1A, 0x18], .tShort), ([0x0A, 0x08, 0x1A, 0x18], .tShort), ([0x0A, 0x08, 0x8A, 0x88], .tLong),
    ([0x0A, 0x08, 0x6A, 0x68], .tShort), ([0x0A, 0x08, 0xFA, 0xF8], .tShort)]) := by decide
/-- V-F16. -/
theorem test_init_fails : seen (exec .init (st o0 [.ok, .ok, .err])) =
    cut [([0xCA, 0xC8], .tInit)] [] 0xCA := by decide
/-- V-C1 to V-C14, some. -/
theorem test_clear : seen (exec .clear (st o0 [])) = ok (sent [([0x0A, 0x08, 0x8A, 0x88], .tLong)]) := by decide
theorem test_home : seen (exec .home (st o0 [])) = ok (sent [([0x0A, 0x08, 0x4A, 0x48], .tLong)]) := by decide
theorem test_entrymode : seen (exec .entrymode (st { o0 with sh := true } [])) =
    ok (sent [([0x0A, 0x08, 0xAA, 0xA8], .tShort)]) := by decide
theorem test_dispctl : seen (exec .dispctl (st { o0 with on := true } [])) =
    ok (sent [([0x0A, 0x08, 0x3A, 0x38], .tShort)]) := by decide
theorem test_dispctl_cursor_and_blink : seen (exec .dispctl (st { o0 with cur := true, blk := true } [])) =
    ok (sent [([0x0A, 0x08, 0xDA, 0xD8], .tShort)]) := by decide
/-- V-G16: the sum wraps. -/
theorem test_gotoxy_wraps : seen (exec .gotoxy (st { o0 with col := 255, row := 3 } [])) =
    ok (sent [([0xBA, 0xB8, 0xCA, 0xC8], .tShort)]) := by decide
/-- V-G11. -/
theorem test_gotoxy_range : seen (exec .gotoxy (st { o0 with row := 4 } [])) = some ([], .addressOutOfRange, false) := by
  decide
/-- V-P5, V-P7, V-P6, V-F11. -/
theorem test_putchar : seen (exec .putchar (st { o0 with b := 0x0A } [])) =
    ok (sent [([0x0B, 0x09, 0x5B, 0x59], .tShort)]) := by decide
theorem test_putstr : seen (exec .putstr (st { o0 with s := [0x48, 0x69] } [])) =
    ok (sent [([0x2B, 0x29, 0x1B, 0x19], .tShort), ([0x6B, 0x69, 0x9B, 0x99], .tShort)]) := by decide
theorem test_putstr_fails : seen (exec .putstr (st { o0 with s := [0x48, 0x69, 0x21] } [.ok, .ok, .ok, .ok, .err])) =
    cut [([0x2B, 0x29, 0x1B, 0x19], .tShort)] [] 0x6B := by decide

/-! ## REQUEST and its forms -/

/-- V-Q2, V-Q7. -/
theorem test_request_gotorow : seen (exec .request (st { o0 with rb := [0x5F, 0x5F, 0x5F, 0x32, 0x00] } [])) =
    ok (sent [([0x3A, 0x38, 0x0A, 0x08], .tShort)]) := by decide
/-- V-Q20, V-Q12: no write; the count is kept by a failure and written by a success. -/
theorem test_request_malformed : result (exec .request (st { o0 with rb := [0x5F, 0x5F, 0x5F, 0x5F, 0x00] } [])) =
    some (.malformedControlToken, 0) ∧ result (exec .request (st { o0 with rb := [0x00] } [])) = some (.ok, 1) := by decide
theorem test_reqClear : seen (exec (.reqClear 0x00) (st o0 [.ok, .err])) =
    cut [] [.w 0x0A, .d .tEH] 0x08 := by decide
theorem test_reqGotoRow1 : writes (exec (.reqGotoRow1 0x00) (st o0 [])) = [0x1A, 0x18, 0x0A, 0x08] := by decide
theorem test_reqGotoRow2 : writes (exec (.reqGotoRow2 0x00) (st o0 [])) = [0x3A, 0x38, 0x0A, 0x08] := by decide
theorem test_reqGotoRow3 : writes (exec (.reqGotoRow3 0x00) (st o0 [])) = [0x9A, 0x98, 0x2A, 0x28] := by decide
theorem test_reqGotoRow4 : writes (exec (.reqGotoRow4 0x0A) (st o0 [])) = [0xBA, 0xB8, 0x2A, 0x28] ∧
    result (exec (.reqGotoRow4 0x0A) (st o0 [])) = some (.ok, 5) := by decide
/-- V-Q4, the first two characters of the message, a failure on the third; V-F8. -/
theorem test_reqInvalid9 : seen (exec (.reqInvalid9 0x00) (st o0 (List.append [.ok, .ok, .ok, .ok, .ok, .ok, .ok, .ok] [.err]))) =
    cut [([0x2B, 0x29, 0x9B, 0x99], .tShort), ([0x6B, 0x69, 0x7B, 0x79], .tShort)] [] 0xEB := by decide
theorem test_reqInvalid5_to_8 :
    [Instr.reqInvalid5 0x00, .reqInvalid6 0x00, .reqInvalid7 0x00, .reqInvalid8 0x00].map
      (fun i => seen (exec i (st o0 [.ok, .ok, .err]))) =
    List.replicate 4 (cut [] (pulses [0x2B, 0x29]) 0x9B) := by decide
/-- V-Q28: an inner zero byte is a character. -/
theorem test_reqText : writes (exec (.reqText [0x41, 0x00, 0x42] 0x00) (st o0 [])) =
      [0x2B, 0x29, 0x8B, 0x89, 0x0B, 0x09, 0x0B, 0x09, 0x2B, 0x29, 0x4B, 0x49] ∧
    result (exec (.reqText [0x41, 0x00, 0x42] 0x00) (st o0 [])) = some (.ok, 4) := by decide
theorem test_reqMalformed : seen (exec (.reqMalformed [0x78] 0x00) (st o0 [])) =
    some ([], .malformedControlToken, false) := by decide
theorem test_reqEmpty : seen (exec .reqEmpty (st o0 [])) = some ([], .malformedControlToken, false) := by decide

/-! ## The encoded things, run alone (V-I1, V-C2, V-C4, V-C13, V-G3, V-P1) -/

theorem test_cmdClear : seen (exec .cmdClear (st o0 [])) = ok (sent [([0x0A, 0x08, 0x8A, 0x88], .tLong)]) := by decide
theorem test_cmdHome : seen (exec .cmdHome (st o0 [])) = ok (sent [([0x0A, 0x08, 0x4A, 0x48], .tLong)]) := by decide
theorem test_cmdEntry : seen (exec (.cmdEntry false true) (st o0 [])) =
    ok (sent [([0x0A, 0x08, 0xAA, 0xA8], .tShort)]) := by decide
theorem test_cmdDispctl : seen (exec (.cmdDispctl true true false) (st o0 [])) =
    ok (sent [([0x0A, 0x08, 0x7A, 0x78], .tShort)]) := by decide
theorem test_cmdFuncset : seen (exec (.cmdFuncset false true true) (st o0 [])) =
    ok (sent [([0x4A, 0x48, 0x3A, 0x38], .tShort)]) := by decide
theorem test_cmdSetddram : seen (exec (.cmdSetddram 0x40) (st o0 [])) =
    ok (sent [([0x3A, 0x38, 0x0A, 0x08], .tShort)]) := by decide
theorem test_nibFs8 : seen (exec .nibFs8 (st o0 [])) = ok (sent [([0xCA, 0xC8], .tInit)]) := by decide
theorem test_nibFs4 : seen (exec .nibFs4 (st o0 [])) = ok (sent [([0x4A, 0x48], .tShort)]) := by decide
theorem test_data : seen (exec (.data 0x41) (st o0 [])) = ok (sent [([0x2B, 0x29, 0x8B, 0x89], .tShort)]) := by decide
theorem test_xbyte : seen (exec (.xbyte 0xC true false false) (st o0 [])) = ok [.w 0xC8] := by decide

/-! ## The sequencer -/

/-- A write that is never answered: BUSY stays 1 (60_exceptions.md R246), and a step changes nothing. -/
theorem test_hang : seen (exec .nibble (st o0 [.ok, .never])) = some ([.w 0x02, .d .tEH], .ok, true) := by decide
/-- A late answer: the first step leaves the write open, the second ends the operation. -/
theorem test_late : seen (core.run 2 { State.reset.withFetchWord 8 0x0 with
    run := { (State.reset.withFetchWord 8 0x0).run with bus := [.ok, .late] } }) = ok (pulses [0x02, 0x00]) := by decide
/-- The second start is refused. -/
theorem test_busy_start : exec .clear { State.reset with busy := true } = .refused .startWhileBusy := rfl
/-- V-O6. -/
theorem test_reserved : exec .reservedB (st o0 []) = .refused (.reservedSelector 11) := rfl

/-! ## Witnesses: states and operands that meet the hypotheses of each statement of Obligations.lean, clause by clause -/

/-- A full set of operands. -/
def o1 : Operands :=
  { v := 0xA, b := 0xA5, rs := true, bl := true, col := 19, row := 3, on := true, cur := true, blk := true, id := true,
    sh := true, s := [0x41, 0x42], rb := [0x5F, 0x5F, 0x5F, 0x30, 0x00] }

/-- The operands `o1` with another request buffer. -/
def rq (rb : Bytes) : Operands := { o1 with rb := rb }

/-- `n` successes, then `rest`. -/
def oks (n : Nat) (rest : List BusAnswer) : List BusAnswer := List.replicate n .ok ++ rest

/-- The instance held at a write of NIBBLE that is not answered: BUSY is 1. -/
def held (rest : List BusAnswer) : State :=
  { st o1 rest with
    busy := true, stepNo := 2, run := { (st o1 rest).run with opsel := .nibble },
    trace := [.w (expanderByte Config.standard 0xA true true true), .d .tEH] }

/-- One start of NIBBLE by selector. -/
def start (waits : Bool) : Start := { fmt := .P, word := [0x0], operands := o1, waits := waits }

/-- The instance `s` with the host's next starts. -/
def withHost (h : List Start) (s : State) : State := { s with run := { s.run with host := h } }

theorem answered_oks (n : Nat) (o : Operands) (as : List BusAnswer) : Answered n (st o (oks n as)) := by
  simp [Answered, st, oks]

theorem witness_ExpanderByteLayout : Config.standard.placement = .reversed ∧
    (straight State.reset).run.cfg.placement = .straight := ⟨rfl, rfl⟩
theorem witness_DecodeOfEncode : (Instr.reqText [0x5F, 0x5F] 0xFF).wellFormed = true ∧
    (Instr.reqMalformed [] 0x00).wellFormed = true ∧ (Instr.reqMalformed [0x30, 0x30] 0x00).wellFormed = true ∧
    (Instr.xbyte 0xF true true true).wellFormed = true ∧ (Instr.cmdSetddram 0x7F).wellFormed = true := by decide
theorem witness_EncodeOfDecode : decode .Q [0x5F, 0x5F, 0x5F, 0x39, 0xFF] = .ok (.reqInvalid9 0xFF) ∧
    decode .C [0xFF] = .ok (.cmdSetddram 0x7F) ∧ decode .X [0xFB] = .ok (.xbyte 0xF true true true) := by decide

theorem witness_NibbleCompletes : (st o1 (oks 2 [.err])).busy = false ∧ Answered 2 (st o1 (oks 2 [.err])) :=
  ⟨rfl, answered_oks 2 o1 _⟩
theorem witness_NibbleFailures : (st o1 [.err]).busy = false ∧ (st o1 [.err]).run.bus = .err :: [] ∧
    (st o1 [.ok, .err]).busy = false ∧ (st o1 [.ok, .err]).run.bus = .ok :: .err :: [] := ⟨rfl, rfl, rfl, rfl⟩
theorem witness_NibbleWriteCounts : (∃ t, exec .nibble (st o1 (oks 2 [])) = .next t) ∧ Answered 2 (st o1 (oks 2 [])) ∧
    (∃ t, exec .nibble (st o1 [.err]) = .next t) ∧ (∃ t, exec .nibble (st o1 [.ok, .err]) = .next t) :=
  ⟨⟨_, rfl⟩, answered_oks 2 o1 _, ⟨_, rfl⟩, ⟨_, rfl⟩⟩
theorem witness_NibbleDecodedView :
    (∃ t, exec .nibble (st o1 []) = .next t ∧ t.busy = false ∧ t.status = .ok) ∧
    (∃ t, exec .nibble (st o1 [.ok, .err]) = .next t ∧ t.status = .busError ∧ t.busy = false) ∧
    (∃ t, exec .nibble (st o1 [.ok, .never]) = .next t ∧ t.busy = true) :=
  ⟨⟨_, rfl, rfl, rfl⟩, ⟨_, rfl, rfl, rfl⟩, ⟨_, rfl, rfl⟩⟩
theorem witness_ByteCompletes : (st o1 (oks 4 [.err])).busy = false ∧ Answered 4 (st o1 (oks 4 [.err])) :=
  ⟨rfl, answered_oks 4 o1 _⟩
theorem witness_ByteFailures : (∀ bus, (st o1 bus).busy = false) ∧ (st o1 [.err]).run.bus = .err :: [] ∧
    (st o1 [.ok, .err]).run.bus = .ok :: .err :: [] ∧ (st o1 [.ok, .ok, .err]).run.bus = .ok :: .ok :: .err :: [] ∧
    (st o1 [.ok, .ok, .ok, .err]).run.bus = .ok :: .ok :: .ok :: .err :: [] := ⟨fun _ => rfl, rfl, rfl, rfl, rfl⟩

theorem witness_InitCompletes : (st o1 (oks 28 [.err])).busy = false ∧ Answered 28 (st o1 (oks 28 [.err])) :=
  ⟨rfl, answered_oks 28 o1 _⟩
theorem witness_InitDecodedView : (st o1 []).run.cfg.codes = Config.standardCodes ∧
    ∃ t, exec .init (st o1 []) = .next t ∧ t.busy = false ∧ t.status = .ok := ⟨rfl, _, rfl, rfl, rfl⟩
/-- `OkOrBusError` speaks of operations that end, in both ways. -/
theorem witness_OkOrBusError : (∃ t, exec .clear (st o1 []) = .next t ∧ t.busy = false ∧ t.status = .ok) ∧
    (∃ t, exec .clear (st o1 [.err]) = .next t ∧ t.busy = false ∧ t.status = .busError) :=
  ⟨⟨_, rfl, rfl, rfl⟩, ⟨_, rfl, rfl, rfl⟩⟩
/-- For ClearCompletes, HomeAndEntrymodeComplete, DispctlCompletes, PutcharCompletes, TokenFormsComplete, CommandWordsComplete
and NibblesDataAndExpanderBytesComplete. -/
theorem witness_ClearCompletes : (st o1 (oks 4 [.never])).busy = false ∧ Answered 4 (st o1 (oks 4 [.never])) :=
  ⟨rfl, answered_oks 4 o1 _⟩
theorem witness_HomeAndEntrymodeComplete : (st o1 (oks 4 [.err])).busy = false ∧ Answered 4 (st o1 (oks 4 [.err])) :=
  witness_ByteCompletes
theorem witness_DispctlCompletes : (st o1 (oks 4 [.err])).busy = false ∧ Answered 4 (st o1 (oks 4 [.err])) :=
  witness_ByteCompletes
theorem witness_PutcharCompletes : (st o1 (oks 4 [.err])).busy = false ∧ Answered 4 (st o1 (oks 4 [.err])) :=
  witness_ByteCompletes
theorem witness_TokenFormsComplete : (st o1 (oks 4 [.err])).busy = false ∧ Answered 4 (st o1 (oks 4 [.err])) :=
  witness_ByteCompletes
theorem witness_CommandWordsComplete : (st o1 (oks 4 [.err])).busy = false ∧ Answered 4 (st o1 (oks 4 [.err])) :=
  witness_ByteCompletes
theorem witness_NibblesDataAndExpanderBytesComplete :
    (st o1 (oks 4 [.err])).busy = false ∧ Answered 4 (st o1 (oks 4 [.err])) := witness_ByteCompletes
/-- Each row from 0 to 3, and the two ends of the range that is refused. -/
theorem witness_GotoxyCompletes :
    (∀ r ∈ [0, 1, 2, 3], (st { o1 with row := r } (oks 4 [.err])).busy = false ∧
      (st { o1 with row := r } (oks 4 [.err])).run.operands.row = r ∧
      Answered 4 (st { o1 with row := r } (oks 4 [.err])) ∧ r.toNat < 4) ∧
    (∀ r ∈ [4, 255], (st { o1 with row := r } []).busy = false ∧ 4 ≤ (st { o1 with row := r } []).run.operands.row.toNat) := by
  refine ⟨fun r hr => ⟨rfl, rfl, answered_oks 4 _ _, ?_⟩, fun r hr => ⟨rfl, ?_⟩⟩ <;> revert r <;> decide
theorem witness_AddressOutOfRangeCause :
    (∃ t, exec .gotoxy (st { o1 with row := 4 } []) = .next t ∧ t.busy = false ∧ t.status = .addressOutOfRange) ∧
    (∃ t, exec .gotoxy (st { o1 with row := 3 } []) = .next t ∧ t.busy = false ∧ t.status = .ok) :=
  ⟨⟨_, rfl, rfl, rfl⟩, ⟨_, rfl, rfl, rfl⟩⟩
theorem witness_CellAddressesDistinct :
    cmdSetddram (ddramAddress Config.standard 2 (BitVec.ofNat 8 0)) =
      cmdSetddram (ddramAddress Config.standard 2 (BitVec.ofNat 8 0)) := rfl
theorem witness_PutstrCompletes : (st o1 (oks 8 [.err])).busy = false ∧
    Answered (4 * (st o1 (oks 8 [.err])).run.operands.s.length) (st o1 (oks 8 [.err])) ∧
    (st o0 [.err]).busy = false ∧ Answered (4 * (st o0 [.err]).run.operands.s.length) (st o0 [.err]) :=
  ⟨rfl, answered_oks 8 o1 _, rfl, by simp [Answered, st, o0, Operands.zero]⟩
/-- The failing write is each of the four of the second character of two; then all succeed. -/
theorem witness_PutstrFailure : ∀ n < 4, ∃ v,
    (st o1 (oks (4 + n) (.err :: oks 8 []))).busy = false ∧ (st o1 (oks (4 + n) (.err :: oks 8 []))).run.operands.s = [0x41] ++ 0x42 :: [] ∧
    (st o1 (oks (4 + n) (.err :: oks 8 []))).run.bus = List.replicate (4 * [(0x41 : Byte)].length + n) .ok ++ .err :: oks 8 [] ∧
    (byteTrace Config.standard 0x42 true true)[2 * n]? = some (.w v) ∧
    Answered (4 * ([0x41] ++ (0x42 : Byte) :: []).length) ((st o1 (oks (4 + n) (.err :: oks 8 []))).afterBusError
      (stringTrace Config.standard [0x41] ++ (byteTrace Config.standard 0x42 true true).take (2 * n)) v) := by
  intro n hn
  match n, hn with
  | 0, _ | 1, _ | 2, _ | 3, _ => exact ⟨_, rfl, rfl, rfl, rfl, fun a h => List.eq_of_mem_replicate (n := 8) h⟩

theorem witness_DecodedViewOfString : ∃ t, exec .putstr (st o1 []) = .next t ∧ t.busy = false ∧ t.status = .ok :=
  ⟨_, rfl, rfl, rfl⟩

/-- The empty text, a text of two underscores, and the same with every write listed. -/
theorem witness_RequestText :
    (st (rq [0x41]) []).run.operands.rb = [] ++ [0x41] ∧ (¬ ∃ tl, ([] : Bytes) = Config.marker ++ tl) ∧
    (st (rq [0x5F, 0x5F, 0x00]) (oks 8 [.err])).run.operands.rb = [0x5F, 0x5F] ++ [0x00] ∧
    (¬ ∃ tl, ([0x5F, 0x5F] : Bytes) = Config.marker ++ tl) ∧
    (st (rq [0x5F, 0x5F, 0x00]) (oks 8 [.err])).busy = false ∧
    Answered (4 * [(0x5F : Byte), 0x5F].length) (st (rq [0x5F, 0x5F, 0x00]) (oks 8 [.err])) :=
  ⟨rfl, by simp [Config.marker], rfl, by simp [Config.marker], rfl, answered_oks 8 _ _⟩
theorem witness_RequestClear : (st o1 (oks 4 [.err])).run.operands.rb = [0x5F, 0x5F, 0x5F, 0x30, 0x00] ∧
    (st o1 (oks 4 [.err])).busy = false ∧ Answered 4 (st o1 (oks 4 [.err])) := ⟨rfl, rfl, answered_oks 4 o1 _⟩
theorem witness_RequestGotoRow : ∀ k ∈ ([0x31, 0x32, 0x33, 0x34] : Bytes),
    (st (rq [0x5F, 0x5F, 0x5F, k, 0x0A]) (oks 4 [.err])).run.operands.rb = [0x5F, 0x5F, 0x5F, k, 0x0A] ∧
    (st (rq [0x5F, 0x5F, 0x5F, k, 0x0A]) (oks 4 [.err])).busy = false ∧
    Answered 4 (st (rq [0x5F, 0x5F, 0x5F, k, 0x0A]) (oks 4 [.err])) := fun _ _ => ⟨rfl, rfl, answered_oks 4 _ _⟩
theorem witness_RequestInvalid : ∀ k ∈ ([0x35, 0x39] : Bytes), 0x35 ≤ k.toNat ∧ k.toNat ≤ 0x39 ∧
    (st (rq [0x5F, 0x5F, 0x5F, k, 0x00]) (oks 60 [.err])).run.operands.rb = [0x5F, 0x5F, 0x5F, k, 0x00] ∧
    (st (rq [0x5F, 0x5F, 0x5F, k, 0x00]) (oks 60 [.err])).busy = false ∧
    Answered 60 (st (rq [0x5F, 0x5F, 0x5F, k, 0x00]) (oks 60 [.err])) ∧
    ∃ u, exec .request (st (rq [0x5F, 0x5F, 0x5F, k, 0x00]) [.err]) = .next u ∧ .wErr 0x2B ∈ u.trace := by
  intro k hk
  fin_cases hk <;>
    exact ⟨by decide, by decide, rfl, rfl, answered_oks 60 _ _, ⟨_, rfl, List.mem_append_right _ (by decide)⟩⟩
/-- Length 0; the marker alone; the two bytes beside the digits; two bytes after the marker. -/
theorem witness_MalformedControlTokenCause : (st (rq []) []).run.operands.rb = [] ∧
    (∀ tl ∈ ([[], [0x2F], [0x3A], [0x30, 0x30]] : List Bytes),
      (st (rq (Config.marker ++ tl ++ [0x00])) []).run.operands.rb = Config.marker ++ tl ++ [0x00] ∧
      ¬ ∃ k : Byte, tl = [k] ∧ 0x30 ≤ k.toNat ∧ k.toNat ≤ 0x39) ∧ (st (rq []) []).busy = false ∧
    (∃ t, exec .request (st (rq []) []) = .next t ∧ t.busy = false ∧ t.status = .malformedControlToken) := by
  refine ⟨rfl, fun tl h => ⟨rfl, ?_⟩, rfl, ⟨_, rfl, rfl, rfl⟩⟩
  simp only [List.mem_cons, List.not_mem_nil, or_false] at h
  rcases h with rfl | rfl | rfl | rfl <;> simp
theorem witness_RequestCount :
    (∃ t, exec .request (st o1 []) = .next t ∧ t.busy = false ∧ t.status = .ok) ∧
    (∃ t, exec .request (st o1 [.err]) = .next t ∧ t.busy = false ∧ t.status ≠ .ok) ∧
    (∃ t, exec .clear (st o1 []) = .next t ∧ t.busy = false) ∧
    (∃ t, exec (.reqText [0x41] 0x00) (st o1 []) = .next t ∧ t.busy = false ∧ t.status = .ok) :=
  ⟨⟨_, rfl, rfl, rfl⟩, ⟨_, rfl, rfl, by decide⟩, ⟨_, rfl, rfl⟩, ⟨_, rfl, rfl, rfl⟩⟩
theorem witness_RequestMatchesItsForm : (st o1 []).busy = false ∧ (st (rq []) []).busy = false := ⟨rfl, rfl⟩
theorem witness_InvalidFormsComplete : (st o1 (oks 60 [.err])).busy = false ∧ Answered 60 (st o1 (oks 60 [.err])) ∧
    Instr.reqInvalid5 0x00 ∈ [Instr.reqInvalid5 0x00, .reqInvalid6 0x00, .reqInvalid7 0x00, .reqInvalid8 0x00,
      .reqInvalid9 0x00] := ⟨rfl, answered_oks 60 o1 _, by simp⟩
theorem witness_OpenFormsComplete : (st o1 (oks 4 [.err])).busy = false ∧
    Answered (4 * [(0x41 : Byte)].length) (st o1 (oks 4 [.err])) := ⟨rfl, answered_oks 4 o1 _⟩
theorem witness_CommandWordsSendTheirEncoding :
    (Instr.cmdSetddram 0x7F).format = .C ∧ (st o1 []).run.cfg.codes = Config.standardCodes ∧
    (∃ t, exec (.cmdSetddram 0x7F) (st o1 []) = .next t ∧ t.busy = false ∧ t.status = .ok) :=
  ⟨rfl, rfl, ⟨_, rfl, rfl, rfl⟩⟩

theorem witness_BusyStartRefused : (held []).busy = true ∧ (∃ j, jobOf .clear (held []).run = some j) ∧
    (withHost [start false] (held [])).busy = true ∧
    (withHost [start false] (held [])).run.host = start false :: [] ∧ (start false).waits = false :=
  ⟨rfl, ⟨_, rfl⟩, rfl, rfl, rfl⟩
theorem witness_BusErrorCause : (∃ t, exec .byte (st o1 [.ok, .err]) = .next t ∧ t.busy = false ∧ .wErr 0x59 ∈ t.trace) ∧
    (∃ t, exec .byte (st o1 []) = .next t ∧ t.busy = false) := by
  refine ⟨⟨_, rfl, rfl, ?_⟩, ⟨_, rfl, rfl⟩⟩
  exact List.mem_append_right _ (by decide)
theorem witness_FailedTraceIsPrefix :
    (∃ t u, exec .byte (st o1 [.ok, .err]) = .next t ∧ exec .byte (st o1 []) = .next u ∧ t.busy = false ∧
      t.status = .busError) ∧
    (∃ t u, exec .byte (st o1 (oks 4 [])) = .next t ∧ exec .byte (st o1 []) = .next u ∧ t.busy = false ∧
      t.status ≠ .busError) ∧
    (∃ t u, exec .byte (st o1 [.ok, .late]) = .next t ∧ exec .byte (st o1 []) = .next u ∧ t.busy = true) :=
  ⟨⟨_, _, rfl, rfl, rfl, rfl⟩, ⟨_, _, rfl, rfl, rfl, by decide⟩, ⟨_, _, rfl, rfl, rfl⟩⟩
theorem witness_ResultsByOperation :
    (∃ t, exec .gotoxy (st { o1 with row := 255 } []) = .next t ∧ t.busy = false ∧ t.status = .addressOutOfRange) ∧
    (∃ t, exec .reqEmpty (st o1 []) = .next t ∧ t.busy = false ∧ t.status = .malformedControlToken) ∧
    (∃ t, exec .putstr (st o1 [.err]) = .next t ∧ t.busy = false ∧ t.status = .busError) :=
  ⟨⟨_, rfl, rfl, rfl⟩, ⟨_, rfl, rfl, rfl⟩, ⟨_, rfl, rfl, rfl⟩⟩
theorem witness_AcceptsNextAfterError : ∃ t, exec .init (st o1 [.err]) = .next t ∧ t.busy = false ∧
    (∃ j, jobOf .init t.run = some j) := ⟨_, rfl, rfl, ⟨_, rfl⟩⟩
/-- A held instance is in flight, the first write or a later one. -/
theorem held_InFlight (rest : List BusAnswer) : InFlight (held rest) :=
  fun _ => ⟨_, _, _, _, rfl, rfl, rfl, rfl, rfl, rfl, rfl, rfl⟩
theorem witness_OnlyUnansweredWritesHang : EveryWriteAnswered (st o1 [.ok, .err]) ∧
    (∃ t, exec .nibble (st o1 [.ok, .err]) = .next t) ∧ InFlight (held [.never]) ∧ (held [.never]).busy = true ∧
    (∀ x ∈ (held [.never]).run.host.head?, x.waits = true) ∧ (held [.never]).run.bus = .never :: [] ∧
    InFlight (held [.err]) ∧ (held [.err]).run.bus = .err :: [] :=
  ⟨⟨by decide, by decide⟩, ⟨_, rfl⟩, held_InFlight _, rfl, by simp [held, st, State.reset], rfl, held_InFlight _, rfl⟩
theorem witness_LateAnswerChangesNothing : (st o1 [.ok, .late, .err]).run.bus = [.ok] ++ .late :: [.err] ∧
    (∀ a ∈ [BusAnswer.ok], a = .ok) ∧ (∀ x ∈ (st o1 [.ok, .late, .err]).run.host.head?, x.waits = true) ∧
    (∃ t, exec .byte (st o1 [.ok, .late, .err]) = .next t ∧ t.busy = true) :=
  ⟨rfl, by simp, by simp [st, State.reset], ⟨_, rfl, rfl⟩⟩
theorem witness_XregHoldsLastWrite :
    (∃ t, exec .byte (st o1 []) = .next t ∧ ∀ v, .wErr v ∉ t.trace) ∧
    (∃ t, exec .byte (st o1 [.err]) = .next t ∧ .wErr 0x5B ∈ t.trace) := by
  refine ⟨⟨_, rfl, fun v h => ?_⟩, ⟨_, rfl, List.mem_append_right _ (by decide)⟩⟩
  have h' : Event.wErr v ∈ pulses [0x5B, 0x59, 0xAB, 0xA9] := h
  simp [pulses] at h'
theorem witness_OperationFrame : (∃ t, exec .putstr (st o1 [.ok, .never]) = .next t ∧ t.busy = true) ∧
    (∃ t, exec .reqEmpty (st o1 []) = .next t ∧ t.trace = []) := ⟨⟨_, rfl, rfl⟩, ⟨_, rfl, rfl⟩⟩
theorem witness_OperationsAreStateless : ({ st o1 [] with status := .busError, xreg := 0xFF } : State).busy = false ∧
    (st o1 []).run.cfg = ({ st o1 [] with status := .busError, xreg := 0xFF } : State).run.cfg ∧
    (∃ t, exec .byte (st o1 []) = .next t ∧ t.busy = false) := ⟨rfl, rfl, ⟨_, rfl, rfl⟩⟩
/-- An operation that ends in the step that starts it, and one that ends after it was held. -/
theorem witness_OldOperandsAreNotRead : (withHost [start true] (st o0 [])).busy = false ∧
    (withHost [start true] (st o0 [])).run.host ≠ [] ∧
    (∃ t, step (withHost [start true] (st o0 [])) = .next t ∧ t.busy = false) ∧ (held [.ok]).busy = true ∧
    (∃ t, step (held [.ok]) = .next t ∧ t.busy = false) := ⟨rfl, by simp [withHost], ⟨_, rfl, rfl⟩, rfl, ⟨_, rfl, rfl⟩⟩
theorem witness_TransientRegisters : (st o1 [.never]).busy = false ∧ (st o1 [.never]).run.bus = .never :: [] ∧
    (st o1 (oks 4 [.never])).run.operands.s = [0x41] ++ 0x42 :: [] ∧
    (st o1 (oks 4 [.never])).run.bus = List.replicate (4 * [(0x41 : Byte)].length) .ok ++ .never :: [] ∧
    (∀ k ∈ ([0x31, 0x34] : Bytes), (st (rq [0x5F, 0x5F, 0x5F, k, 0x00]) [.never]).run.operands.rb =
      [0x5F, 0x5F, 0x5F, k, 0x00] ∧ 0x31 ≤ k.toNat ∧ k.toNat ≤ 0x34) := by
  refine ⟨rfl, rfl, rfl, rfl, fun k hk => ⟨rfl, ?_, ?_⟩⟩ <;> revert k <;> decide
theorem witness_TracesArePaced : Instr.nibble.format = .P ∧ (Instr.reqClear 0x00).format = .Q ∧
    (∃ t, exec .nibble (st o1 []) = .next t ∧ t.busy = false ∧ t.status = .ok) ∧
    (∃ t, exec (.reqClear 0x00) (st o1 []) = .next t ∧ t.busy = false ∧ t.status = .ok) :=
  ⟨rfl, rfl, ⟨_, rfl, rfl, rfl⟩, ⟨_, rfl, rfl, rfl⟩⟩
theorem witness_StepRunsDecodedInstruction : (withHost [start true] (st o0 [])).run.host = start true :: [] ∧
    (withHost [start true] (st o0 [])).busy = false ∧ decode (start true).fmt (start true).word = .ok .nibble ∧
    (withHost [start false] (held [])).run.host = start false :: [] ∧ (start false).waits = false := ⟨rfl, rfl, rfl, rfl, rfl⟩
theorem witness_StepWithoutStart : (st o1 []).busy = false ∧ (st o1 []).run.host = [] ∧ (held []).busy = true ∧
    (∀ x ∈ (withHost [start true] (held [])).run.host.head?, x.waits = true) ∧
    (withHost [{ start true with word := [0x10] }] (st o0 [])).busy = false ∧
    decode (start true).fmt [0x10] = .error .notASelector := ⟨rfl, rfl, rfl, by simp [withHost, start], rfl, rfl⟩
/-- The invariant holds of an instance in flight, from which a step goes on. -/
theorem witness_StepKeepsInvariant : Machine.Inv (held [.ok]) ∧ ∃ t, step (held [.ok]) = .next t ∧ t.busy = false := by
  refine ⟨⟨⟨by decide, by decide, by decide⟩, fun h => by simp [held] at h, fun h => by simp [held] at h, held_InFlight _,
    ?_, ?_⟩, ⟨_, rfl, rfl⟩⟩
  · intro v hv
    have h1 : Event.wErr v ∉ (held [.ok]).history := by simp [State.history, held, st, State.reset]
    rcases hv with hv | hv
    · have : v = expanderByte Config.standard 0xA true true true := by
        simpa [State.history, held, st, State.reset] using hv
      subst this; decide
    · exact (h1 hv).elim
  · intro v hv; simp [held] at hv
/-- Every clause: each operation, and a command and a data byte run alone. -/
theorem witness_LeastDurations : ∀ i ∈ [Instr.nibble, .byte, .gotoxy, .entrymode, .dispctl, .putchar, .clear, .home, .putstr,
    .init, .cmdClear, .cmdFuncset false true false, .data 0x41],
    ∃ t, exec i (st o1 []) = .next t ∧ t.busy = false ∧ t.status = .ok := by
  intro i hi
  fin_cases hi <;> exact ⟨_, rfl, rfl, rfl⟩

/-- Two displays of one fleet, ordinals 7 and 3 on the bus handles 39 and 38. -/
def twoDisplays : Option Fleet :=
  ((Fleet.empty Config.standardLines).discover 7 39 Config.standard).bind fun f => f.discover 3 38 Config.standard

/-- What a fleet of `twoDisplays` holds. -/
def pair : Fleet := twoDisplays.getD (Fleet.empty Config.standardLines)

theorem pair_Inv : pair.Inv := ⟨by decide, by decide, by decide, by decide⟩
theorem witness_SpacesAndBounds : pair.Inv ∧ (∃ s, pair.state? 7 = some s) ∧ (∃ s, pair.state? 3 = some s) :=
  ⟨pair_Inv, ⟨_, rfl⟩, ⟨_, rfl⟩⟩
/-- Discovery on a new handle, and of a peer that comes back; removal. -/
theorem witness_ResetIsIdle : (∃ g, pair.discover 0 40 Config.standard = some g) ∧ pair.Inv ∧
    (∃ g, pair.remove 3 = some g ∧ (g.pinsAt 38).isSome = true ∧ ∃ h, g.discover 3 38 Config.standard = some h) :=
  ⟨⟨_, rfl⟩, pair_Inv, ⟨_, rfl, rfl, ⟨_, rfl⟩⟩⟩
/-- A second peer on a handle or an ordinal in use keeps no duty of the host. -/
theorem test_discover_needs_own_identity : pair.discover 7 40 Config.standard = none ∧
    pair.discover 0 39 Config.standard = none := by decide
theorem witness_InstancesAreIndependent : pair.Inv ∧ (∃ g, pair.stepAt 7 = .next g) ∧ (∃ g, pair.stepAt 3 = .next g) ∧
    (∃ s, pair.state? 7 = some s) ∧ (∃ g, pair.discover 0 40 Config.standard = some g) ∧ (∃ g, pair.remove 7 = some g) :=
  ⟨pair_Inv, ⟨_, rfl⟩, ⟨_, rfl⟩, ⟨_, rfl⟩, ⟨_, rfl⟩, ⟨_, rfl⟩⟩
/-- A bring-up that ends with `Ok`, whatever the banner is. -/
theorem bringUp_ok : ∃ t, bringUp (st o1 []) = .next t ∧ t.busy = false ∧ t.status = .ok := by
  have ha : ∀ n, Answered n (st o1 []) := fun n a h => by simp [st] at h
  have h1 := exec_ok (i := .init) (j := jobInit (st o1 []).run) rfl rfl rfl (ha _)
  have h2 := exec_ok (i := .putstr) (j := .plain (putstrSlots Config.standard 0 Config.banner))
    (s := ((st o1 []).afterOk (eventsOf (initSlots (st o1 []).run.cfg)) none).presentString Config.banner) rfl rfl rfl
    (fun a h => by simp [State.presentString, State.afterOk, st] at h)
  exact ⟨_, bringUp_delivered h1 rfl rfl h2 rfl, rfl, rfl⟩
theorem witness_BringUpSequence : (st o1 []).busy = false ∧ Answered (28 + 4 * Config.banner.length) (st o1 []) ∧
    (∃ t, call .init (st o1 [.late, .err]) = .next t ∧ t.busy = false ∧ t.status ≠ .ok) ∧
    (∃ t, bringUp (st o1 [.late, .err]) = .next t ∧ t.busy = false) ∧
    (∃ t, exec .init (st o1 [.err]) = .next t ∧ t.busy = false) ∧ .never ∉ (st o1 [.late, .err]).run.bus :=
  ⟨rfl, by simp [Answered, st], ⟨_, rfl, rfl, by decide⟩, ⟨_, rfl, rfl⟩, ⟨_, rfl, rfl⟩, by simp [st]⟩

end Sys2Proof.Tests
end

section
/-! SUPPORT. The statements of 00_scope.md: what can be read of each space (R6, R14), and what a step starts (R8). -/

namespace Sys2Proof.Machine

/-! ## Reading the spaces -/

@[simp] theorem memRead_xreg (n : Nat) (s : State) : memRead .xreg n s = none := rfl
@[simp] theorem memRead_req (n : Nat) (s : State) : memRead .req n s = s.run.operands.rb[n]? := rfl
@[simp] theorem memRead_str (n : Nat) (s : State) : memRead .str n s = s.run.operands.s[n]? := rfl

/-- A read at a row of the table gives that row's entry. -/
theorem memRead_lat (row : Fin Config.rows) (s : State) :
    memRead .lat row s = some (lineBase s.run.cfg.lineBase row) := by
  simp [memRead]

/-- No read of the table beyond its rows. -/
theorem memRead_lat_of_le {n : Nat} (h : Config.rows ≤ n) (s : State) : memRead .lat n s = none := by
  simp [memRead, Nat.not_lt.mpr h]

theorem memRead_lat_isSome_iff (n : Nat) (s : State) : (memRead .lat n s).isSome = true ↔ n < Config.rows := by
  rcases Nat.lt_or_ge n Config.rows with h | h
  · simp [memRead_lat ⟨n, h⟩ s, h]
  · simp [memRead_lat_of_le h, Nat.not_lt.mpr h]

/-- Reads of `LAT` depend on the table only, not on the rest of the configuration or on the operands. -/
theorem memRead_lat_congr (n : Nat) {s t : State} (h : s.run.cfg.lineBase = t.run.cfg.lineBase) :
    memRead .lat n s = memRead .lat n t := by
  simp [memRead, h]

/-! ## The table of a fleet -/

/-- The state under an ordinal is the state of a member that has it. -/
theorem Fleet.exists_member_of_state? {f : Fleet} {k : Nat} {s : State} (h : f.state? k = some s) :
    ∃ m ∈ f.members, m.ordinal = k ∧ m.state = s := by
  obtain ⟨m, hm, rfl⟩ := Option.map_eq_some_iff.mp h
  exact ⟨m, List.mem_of_find?_eq_some hm, by simpa using List.find?_some hm, rfl⟩

/-- Every member of a fleet with its invariant holds the fleet's table (20_memory.md R54). -/
theorem Fleet.Inv.lineBase_of_state? {f : Fleet} (hf : f.Inv) {k : Nat} {s : State} (h : f.state? k = some s) :
    s.run.cfg.lineBase = f.lines := by
  obtain ⟨m, hm, -, rfl⟩ := exists_member_of_state? h
  exact hf.table m hm

/-- Settles O58: each space by its own read lemma; two members of a fleet both hold the fleet's table. -/
theorem spacesAndBounds : Obligations.SpacesAndBounds := by
  unfold Obligations.SpacesAndBounds
  constructor
  · intro s n
    refine ⟨memRead_xreg n s, memRead_lat_isSome_iff n s, ?req, ?str, ?rows⟩
    case req => simp
    case str => simp
    case rows => exact ⟨memRead_lat 0 s, memRead_lat 1 s, memRead_lat 2 s, memRead_lat 3 s⟩
  · intro f j k n s t hf hs ht
    have hline : s.run.cfg.lineBase = t.run.cfg.lineBase :=
      (hf.lineBase_of_state? hs).trans (hf.lineBase_of_state? ht).symm
    exact memRead_lat_congr n hline

/-! ## What a step starts -/

/-- Only the request port puts something of its own, the bytes delivered, among the operands (10_state.md R25). -/
theorem Start.presents_eq (st : Start) :
    st.presents = if st.fmt = .Q then { st.operands with rb := st.word } else st.operands := by
  cases h : st.fmt <;> simp [Start.presents, h]

/-- Settles O51: the step launches the start (`step_launch`), whose operands are those it presents. -/
theorem stepRunsDecodedInstruction : Obligations.StepRunsDecodedInstruction := by
  unfold Obligations.StepRunsDecodedInstruction
  intro s st rest i hhost hready hdecode
  rw [step_launch hhost hready hdecode, State.latch, Start.presents_eq]

/-- The request CLEAR, delivered at the request port. -/
def startRequestClear : Start :=
  { fmt := .Q, word := [0x5F, 0x5F, 0x5F, 0x30, 0x00], operands := Operands.zero, waits := true }

/-- The premises of O51 are met at the request port, and the bytes delivered are then in `RB`. -/
theorem step_startRequestClear :
    step (State.reset.prepend startRequestClear) = exec (.reqClear 0x00) { State.reset with
      run := { State.reset.run with operands := { Operands.zero with rb := startRequestClear.word } } } :=
  stepRunsDecodedInstruction (State.reset.prepend startRequestClear) startRequestClear [] (.reqClear 0x00)
    rfl (.inl rfl) rfl

end Sys2Proof.Machine
end

section
/-! SUPPORT. The invariant of the machine: at reset, and kept by every step (10_state.md R20, R23, R24, R27, R35). -/

namespace Sys2Proof.Machine

/-! ## Bit 2 of the bytes an expansion writes (30_encoding.md R81) -/

@[simp] theorem assembleX_zeroBit (d : Nibble) (bl e rs : Bool) :
    (assembleX d bl e rs).getLsbD Config.zeroBit = false := by
  cases bl <;> cases e <;> cases rs <;>
    simp [assembleX, bitAt, Config.zeroBit, Config.dataLow, Config.blBit, Config.strobeBit, Config.rsBit]

@[simp] theorem zeroBitClear_nil : ZeroBitClear [] := by simp [ZeroBitClear]

@[simp] theorem zeroBitClear_append (a b : List Event) : ZeroBitClear (a ++ b) ↔ ZeroBitClear a ∧ ZeroBitClear b := by
  simp only [ZeroBitClear, List.mem_append]
  constructor
  · intro h
    exact ⟨fun v hv => h v (hv.imp .inl .inl), fun v hv => h v (hv.imp .inr .inr)⟩
  · rintro ⟨ha, hb⟩ v ((hv | hv) | (hv | hv))
    exacts [ha v (.inl hv), hb v (.inl hv), ha v (.inr hv), hb v (.inr hv)]

@[simp] theorem zeroBitClear_w (v : Byte) (es : List Event) :
    ZeroBitClear (.w v :: es) ↔ v.getLsbD Config.zeroBit = false ∧ ZeroBitClear es := by
  simp [ZeroBitClear, or_imp, forall_and, and_assoc]

@[simp] theorem zeroBitClear_wErr (v : Byte) (es : List Event) :
    ZeroBitClear (.wErr v :: es) ↔ v.getLsbD Config.zeroBit = false ∧ ZeroBitClear es := by
  simp [ZeroBitClear, or_imp, forall_and, and_left_comm]

@[simp] theorem zeroBitClear_d (t : WaitClass) (es : List Event) : ZeroBitClear (.d t :: es) ↔ ZeroBitClear es := by
  simp [ZeroBitClear]

@[simp] theorem zeroBitClear_pulseTrace (cfg : Config) (v : Nibble) (rs bl : Bool) :
    ZeroBitClear (pulseTrace cfg v rs bl) := by simp [pulseTrace, expanderByte]

@[simp] theorem zeroBitClear_byteTrace (cfg : Config) (b : Byte) (rs bl : Bool) :
    ZeroBitClear (byteTrace cfg b rs bl) := by simp [byteTrace]

@[simp] theorem zeroBitClear_sendTrace (cfg : Config) (b : Byte) (rs : Bool) (t : WaitClass) :
    ZeroBitClear (sendTrace cfg b rs t) := by simp [sendTrace]

@[simp] theorem zeroBitClear_pulseDelayTrace (cfg : Config) (v : Nibble) (t : WaitClass) :
    ZeroBitClear (pulseDelayTrace cfg v t) := by simp [pulseDelayTrace]

@[simp] theorem zeroBitClear_initTrace (cfg : Config) : ZeroBitClear (initTrace cfg) := by simp [initTrace]

@[simp] theorem zeroBitClear_stringTrace (cfg : Config) (x : Bytes) : ZeroBitClear (stringTrace cfg x) := by
  induction x with
  | nil => simp [stringTrace]
  | cons c cs ih => simpa [stringTrace] using ih

/-- GOTOXY past its check is one SEND. -/
theorem gotoxyBody_ok {cfg : Config} {col row : Byte} {p : List Slot} (h : gotoxyBody cfg col row = .ok p) :
    ∃ b, p = sendSlots cfg 0 b false .tShort := by
  unfold gotoxyBody at h
  split at h
  · cases h; exact ⟨_, rfl⟩
  · cases h

theorem zeroBitClear_gotoxyBody {cfg : Config} {col row : Byte} {p : List Slot} (h : gotoxyBody cfg col row = .ok p) :
    ZeroBitClear (eventsOf p) := by
  obtain ⟨b, rfl⟩ := gotoxyBody_ok h
  simp

theorem zeroBitClear_tokenJob {cfg : Config} {sel len : Nat} {p : List Slot} (h : (tokenJob cfg sel len).body = .ok p) :
    ZeroBitClear (eventsOf p) := by
  simp only [tokenJob, tokenBody] at h
  split at h
  · cases h; simp [clearSlots]
  · exact zeroBitClear_gotoxyBody h
  · cases h; simp

theorem zeroBitClear_requestJob {cfg : Config} {rb : Bytes} {p : List Slot} (h : (requestJob cfg rb).body = .ok p) :
    ZeroBitClear (eventsOf p) := by
  rcases requestJob_cases cfg rb with ⟨hj, -⟩ | ⟨_, _, n, -, -, -, hj⟩ | ⟨_, _, -, -, hj⟩ <;> rw [hj] at h
  · cases h
  · exact zeroBitClear_tokenJob h
  · cases h; simp

/-- Every expansion writes bytes with bit 2 clear only. -/
theorem zeroBitClear_jobOf {i : Instr} {r : Run} {j : Job} {p : List Slot} (hj : jobOf i r = some j)
    (hb : j.body = .ok p) : ZeroBitClear (eventsOf p) := by
  cases i <;> simp only [jobOf, Option.some.injEq, reduceCtorEq] at hj <;> subst hj
  case gotoxy => exact zeroBitClear_gotoxyBody hb
  case request => exact zeroBitClear_requestJob hb
  case reqClear | reqGotoRow1 | reqGotoRow2 | reqGotoRow3 | reqGotoRow4 | reqInvalid5 | reqInvalid6 | reqInvalid7 |
      reqInvalid8 | reqInvalid9 => exact zeroBitClear_tokenJob hb
  case reqMalformed | reqEmpty => cases hb
  all_goals
    cases hb
    simp [clearSlots, homeSlots, entrymodeSlots, dispctlSlots, putcharSlots]

/-! ## Refused writes stand last (00_scope.md R9) -/

theorem refusedLast_eventsOf (p : List Slot) : RefusedLast (eventsOf p) :=
  fun v hv => wErr_not_mem_eventsOf p v (List.mem_of_mem_dropLast hv)

theorem refusedLast_eventsOf_concat (p : List Slot) (e : Event) : RefusedLast (eventsOf p ++ [e]) := by
  intro v
  rw [List.dropLast_concat]
  exact wErr_not_mem_eventsOf p v

/-! ## The invariant -/

/-- A result that is delivered leaves an idle block (10_state.md R28): only the table and the trace are left to look at. -/
theorem inv_deliver {s : State} (r : Status) (ht : TableOk s.run.cfg.lineBase) (hz : ZeroBitClear s.history)
    (hr : RefusedLast s.trace) : Inv (s.deliver r) where
  table := ht
  idle := fun _ => ⟨rfl, rfl, rfl, rfl⟩
  port := fun _ => rfl
  flight := fun h => nomatch h
  zeroBit := hz
  refused := hr

/-- An operation under way, at a write or between two steps: of its expansion the steps `pre` are done and `post` are to
come. At a write that is not answered this is what `Inv` says of a busy block. -/
structure Underway (j : Job) (pre post : List Slot) (s : State) : Prop where
  busy   : s.busy = true
  job    : jobOf s.run.opsel s.run = some j
  body   : j.body = .ok (pre ++ post)
  stepNo : s.stepNo = pre.length
  ct     : s.ct = j.ct
  trace  : s.trace = eventsOf pre
  past   : ZeroBitClear s.past
  table  : TableOk s.run.cfg.lineBase

namespace Underway

variable {j : Job} {pre mid post : List Slot} {k : Slot} {v : Byte} {s : State}

theorem zeroBitClear_eventsOf (h : Underway j pre post s) :
    ZeroBitClear (eventsOf pre) ∧ ZeroBitClear (eventsOf post) := by
  simpa using zeroBitClear_jobOf h.job h.body

theorem history (h : Underway j pre post s) : ZeroBitClear s.history := by
  simp [State.history, h.trace, h.past, h.zeroBitClear_eventsOf]

/-- The start of an operation (10_state.md R27). -/
theorem of_begin {i : Instr} {p : List Slot} (hj : jobOf i s.run = some j) (hb : j.body = .ok p)
    (ht : TableOk s.run.cfg.lineBase) (hz : ZeroBitClear s.history) : Underway j [] p (s.begin i j.ct) where
  busy := rfl
  job := by simpa using hj
  body := hb
  stepNo := rfl
  ct := rfl
  trace := rfl
  past := hz
  table := ht

/-- Steps that succeed. -/
theorem performAll (h : Underway j pre (mid ++ post) s) : Underway j (pre ++ mid) post (s.performAll mid) where
  busy := by simp [h.busy]
  job := by simpa using h.job
  body := by simp [h.body]
  stepNo := by simp [h.stepNo]
  ct := by simp [h.ct]
  trace := by simp [h.trace]
  past := by simpa using h.past
  table := by simpa using h.table

theorem inv_finishOk (h : Underway j pre [] s) (c : Option Nat) : Inv (finishOk c s) :=
  inv_deliver .ok h.table h.history (h.trace ▸ refusedLast_eventsOf pre)

theorem inv_raiseError (h : Underway j pre (k :: post) s) (hk : k.act = .write v) :
    Inv (raiseError .busError (busWriteErr v (s.enter k))) := by
  refine inv_deliver .busError h.table ?_ ?_
  · have hw := h.zeroBitClear_eventsOf.2 v (.inl (by simp [hk]))
    have hh := h.history
    simp only [State.history, zeroBitClear_append] at hh
    simp [State.history, hh, hw]
  · simpa [h.trace] using refusedLast_eventsOf_concat pre (.wErr v)

/-- A write that is not answered leaves the operation in flight there (60_exceptions.md R246), whatever answers are left. -/
theorem inv_held (h : Underway j pre (k :: post) s) (hk : k.act = .write v) (bus : List BusAnswer) :
    Inv { s.enter k with run := { s.run with bus := bus } } where
  table := h.table
  idle := fun hb => by simp [h.busy] at hb
  port := fun hb => by simp [h.busy] at hb
  flight := fun _ => ⟨j, pre ++ k :: post, k, v, by simpa using h.job, h.body, by simp [h.stepNo], hk, rfl, rfl, h.ct,
    by simp [h.stepNo, h.trace, eventsOf]⟩
  zeroBit := h.history
  refused := h.trace ▸ refusedLast_eventsOf pre

/-- However running the rest of its steps turns out, the invariant holds afterwards. -/
theorem inv_drive (h : Underway j pre post s) (c : Option Nat) : Inv (drive c post s) := by
  rcases drive_cases c post s with ⟨-, hd⟩ | ⟨mid, k, v, rest, rfl, hk, -, hd⟩
  · rw [hd]
    exact (performAll (by simpa using h)).inv_finishOk c
  · have hm := h.performAll
    rcases hd with ⟨-, hd⟩ | ⟨-, hd⟩ | ⟨-, hd⟩ <;> rw [hd]
    · exact hm.inv_raiseError hk
    · exact hm.inv_held hk _
    · exact hm.inv_held hk _

end Underway

/-- A busy block with the invariant stands at a write of an operation under way. -/
theorem Inv.underway {s : State} (h : Inv s) (hb : s.busy = true) :
    ∃ j pre k v post, Underway j pre (k :: post) s ∧ k.act = .write v := by
  obtain ⟨j, p, k, v, hj, hbody, hk, hw, -, -, hct, htr⟩ := h.flight hb
  obtain ⟨hlt, rfl⟩ := List.getElem?_eq_some_iff.mp hk
  have hz := h.zeroBit
  simp only [State.history, zeroBitClear_append] at hz
  refine ⟨j, p.take s.stepNo, p[s.stepNo], v, p.drop (s.stepNo + 1), ?_, hw⟩
  exact ⟨hb, hj, by simp [hbody], by simp [Nat.le_of_lt hlt], hct, htr, hz.1, h.table⟩

/-- A start that is taken: its check fails, or its expansion is run from its first step. -/
theorem startJob_next {i : Instr} {j : Job} {s t : State} (h : startJob i j s = .next t) :
    (∃ e, j.body = .error e ∧ t = raiseError e (s.begin i j.ct)) ∨
    ∃ p, j.body = .ok p ∧ t = drive j.count p (s.begin i j.ct) := by
  have hb := (startJob_cases i j h).1
  cases hbody : j.body with
  | error e => simp only [startJob, hb, hbody] at h; exact .inl ⟨e, rfl, (Host.Outcome.next.inj h).symm⟩
  | ok p => simp only [startJob, hb, hbody] at h; exact .inr ⟨p, rfl, (Host.Outcome.next.inj h).symm⟩

/-- Every instruction keeps the invariant, whatever the idle state it starts from. -/
theorem inv_exec {i : Instr} {s t : State} (ht : TableOk s.run.cfg.lineBase) (hz : ZeroBitClear s.history)
    (h : exec i s = .next t) : Inv t := by
  obtain ⟨j, hj, hs⟩ := exec_next_job h
  rcases startJob_next hs with ⟨e, -, rfl⟩ | ⟨p, hp, rfl⟩
  · exact inv_deliver e ht (by simpa [State.history] using hz) (refusedLast_eventsOf [])
  · exact (Underway.of_begin hj hp ht hz).inv_drive j.count

/-- Going on with the operation in flight keeps the invariant. -/
theorem Inv.resume {s t : State} (hs : Inv s) (hb : s.busy = true) (h : resume s = .next t) : Inv t := by
  obtain ⟨j, pre, k, v, post, hu, hk⟩ := hs.underway hb
  rw [resume_held rfl hu.job hu.body hk hu.stepNo] at h
  obtain rfl := Host.Outcome.next.inj h
  exact hu.inv_drive j.count

/-- Settles O53: a step does nothing, goes on, or starts an instruction (`step_cases`), and each keeps the invariant. -/
theorem stepKeepsInvariant : Obligations.StepKeepsInvariant := by
  unfold Obligations.StepKeepsInvariant
  intro s t hs h
  rcases step_cases h with ⟨-, -, rfl⟩ | ⟨hb, h⟩ | ⟨st, rest, i, -, -, -, h⟩
  · exact hs
  · exact hs.resume hb h
  · exact inv_exec (s := s.latch st rest) hs.table hs.zeroBit h

/-- Settles O54: the table of decision D5, in an idle block without a history. -/
theorem resetSatisfiesInvariant : Obligations.ResetSatisfiesInvariant where
  table := ⟨by decide, by decide, by decide⟩
  idle := fun _ => ⟨rfl, rfl, rfl, rfl⟩
  port := fun _ => rfl
  flight := fun h => nomatch h
  zeroBit := zeroBitClear_nil
  refused := refusedLast_eventsOf []

end Sys2Proof.Machine
end

section
/-! SUPPORT. The statements of 10_state.md about one operation: its frame (R20, R21, R25, R26, R28), what it depends on
(R20), and the registers that exist only while it runs (R23, R24, R27). -/

namespace Sys2Proof.Machine

/-! ## The frame of an operation -/

/-- Running some steps either leaves the operation in flight or leaves a port that presents nothing. -/
theorem portIdle_drive (c : Option Nat) (p : List Slot) {s : State} (hs : s.busy = true) : PortIdle (drive c p s) := by
  intro hb
  rcases drive_cases c p s with ⟨-, hd⟩ | ⟨pre, k, v, post, -, -, -, ⟨-, hd⟩ | ⟨-, hd⟩ | ⟨-, hd⟩⟩ <;>
    rw [hd] at hb ⊢
  · rfl
  · rfl
  all_goals simp [hs] at hb

/-- So does every instruction. -/
theorem portIdle_exec {i : Instr} {s t : State} (h : exec i s = .next t) : PortIdle t := by
  obtain ⟨j, -, hs⟩ := exec_next_job h
  rcases startJob_next hs with ⟨e, -, rfl⟩ | ⟨p, -, rfl⟩
  · exact fun _ => rfl
  · exact portIdle_drive _ _ rfl

/-- So does going on with an operation, whether or not the busy state it goes on from has the invariant. -/
theorem portIdle_resume {s t : State} (hs : s.busy = true) (h : resume s = .next t) : PortIdle t := by
  unfold resume resumeJob at h
  split at h
  · split at h
    · cases h
    · split at h
      · cases h; exact portIdle_drive _ _ hs
      · cases h
  · cases h

theorem PortIdle.opsel {s : State} (h : PortIdle s) (hb : s.busy = false) : s.run.opsel = idleOpsel := by
  rw [h hb, Run.release_opsel]

theorem PortIdle.operands {s : State} (h : PortIdle s) (hb : s.busy = false) : s.run.operands = Operands.zero := by
  rw [h hb, Run.release_operands]

/-- An operation that leaves no event has made no write. -/
theorem xregAfter_of_eventsOf_eq_nil {old : Byte} {p : List Slot} (h : eventsOf p = []) :
    xregAfter old (eventsOf p) = old := by rw [h, xregAfter_nil]

/-- What no instruction touches, and what it only adds to. -/
theorem exec_frame {i : Instr} {s t : State} (h : exec i s = .next t) :
    t.device = s.device ∧ t.run.cfg = s.run.cfg ∧ t.run.host = s.run.host ∧ t.past = s.past ++ s.trace ∧
    (∃ n, t.run.bus = s.run.bus.drop n) ∧ (t.trace = [] → t.xreg = s.xreg) := by
  obtain ⟨-, j, -, ⟨e, -, rfl⟩ | ⟨p, -, -, rfl⟩ |
    ⟨pre, k, v, post, -, -, -, ⟨-, rfl⟩ | ⟨-, rfl⟩ | ⟨-, rfl⟩⟩⟩ := exec_cases h
  · exact ⟨rfl, rfl, rfl, rfl, ⟨0, rfl⟩, fun _ => rfl⟩
  · exact ⟨rfl, rfl, rfl, rfl, ⟨_, rfl⟩, fun he => xregAfter_of_eventsOf_eq_nil he⟩
  · exact ⟨rfl, rfl, rfl, rfl, ⟨_, rfl⟩, fun he => by simp [State.afterBusError] at he⟩
  · exact ⟨rfl, rfl, rfl, rfl, ⟨_, rfl⟩, fun he => xregAfter_of_eventsOf_eq_nil he⟩
  · exact ⟨rfl, rfl, rfl, rfl, ⟨_, rfl⟩, fun he => xregAfter_of_eventsOf_eq_nil he⟩

/-- While an operation is in flight the port keeps what it presents, and the result registers the old result (log
entry 33). -/
theorem exec_frame_inFlight {i : Instr} {s t : State} (h : exec i s = .next t) (hb : t.busy = true) :
    t.run.opsel = i ∧ t.run.operands = s.run.operands ∧ t.status = s.status ∧ t.consumed = s.consumed := by
  obtain ⟨-, j, -, ⟨e, -, rfl⟩ | ⟨p, -, -, rfl⟩ |
    ⟨pre, k, v, post, -, -, -, ⟨-, rfl⟩ | ⟨-, rfl⟩ | ⟨-, rfl⟩⟩⟩ := exec_cases h
  case inr.inr.inr.inl | inr.inr.inr.inr => exact ⟨rfl, rfl, rfl, rfl⟩
  all_goals cases hb

/-- Settles O46: `exec_frame` for every outcome, `exec_frame_inFlight` for a held one, `portIdle_exec` for one that ended. -/
theorem operationFrame : Obligations.OperationFrame := by
  unfold Obligations.OperationFrame
  intro i s t h
  obtain ⟨hdev, hcfg, hhost, hpast, hbus, hx⟩ := exec_frame h
  refine ⟨hdev, hcfg, hhost, fun n => memRead_lat_congr n (congrArg Config.lineBase hcfg), hpast, hbus, hx,
    ?flight, ?ended⟩
  case flight =>
    intro hb
    obtain ⟨hop, hopnd, hst, hcons⟩ := exec_frame_inFlight h hb
    exact ⟨hop, hopnd, hst, hcons, fun sp n => memRead_congr sp n hcfg hopnd⟩
  case ended =>
    exact fun hb => ⟨(portIdle_exec h).opsel hb, (portIdle_exec h).operands hb⟩

/-! ## What an operation depends on -/

theorem Answered.congr {n : Nat} {s s' : State} (h : Answered n s) (hbus : s.run.bus = s'.run.bus) : Answered n s' :=
  fun a ha => h a (hbus ▸ ha)

/-- Settles O47: both states run the one expansion against the one list of answers, so they end in the same way. -/
theorem operationsAreStateless : Obligations.OperationsAreStateless := by
  unfold Obligations.OperationsAreStateless
  intro i s s' t hs' hcfg hopnd hbus h
  obtain ⟨-, j, hj, hc⟩ := exec_cases h
  rw [jobOf_congr i hcfg hopnd] at hj
  rw [exec_eq hj]
  obtain ⟨e, he, rfl⟩ | ⟨p, hp, ha, rfl⟩ | ⟨pre, k, v, post, hp, hk, ha, hc⟩ := hc
  · exact ⟨_, startJob_check i j e hs' he, rfl, rfl, rfl, rfl, rfl, rfl, fun _ => rfl, hbus.symm⟩
  · exact ⟨_, startJob_ok i j p hs' hp (ha.congr hbus), rfl, rfl, rfl, rfl, rfl, rfl, fun _ => rfl,
      congrArg (List.drop _) hbus.symm⟩
  · rw [hbus] at hc
    obtain ⟨he, rfl⟩ | ⟨he, rfl⟩ | ⟨he, rfl⟩ := hc
    · exact ⟨_, startJob_busError i j pre post k v hs' hp hk (ha.congr hbus) he, rfl, rfl, rfl, rfl, rfl, rfl,
        fun _ => rfl, congrArg (List.drop _) hbus.symm⟩
    · exact ⟨_, startJob_late i j pre post k v hs' hp hk (ha.congr hbus) he, rfl, rfl, rfl, rfl, rfl, rfl,
        fun hb => (nomatch hb), rfl⟩
    · exact ⟨_, startJob_never i j pre post k v hs' hp hk (ha.congr hbus) he, rfl, rfl, rfl, rfl, rfl, rfl,
        fun hb => (nomatch hb), rfl⟩

/-- A start presents OPSEL itself (10_state.md R26): what it held before is not looked at. -/
theorem exec_opsel (i k : Instr) (s : State) : exec i { s with run := { s.run with opsel := k } } = exec i s := by
  cases i <;> rfl

/-- A step in which an operation ends leaves a port that presents nothing. -/
theorem step_portIdle {s t : State} (h : step s = .next t) (hs : s.busy = true ∨ s.run.host ≠ []) : PortIdle t := by
  rcases step_cases h with ⟨hb, hh, -⟩ | ⟨hb, h⟩ | ⟨st, rest, i, -, -, -, h⟩
  · simp [hb, hh] at hs
  · exact portIdle_resume hb h
  · exact portIdle_exec h

/-- A start that the host makes on an idle block presents every operand: none held before is looked at. -/
theorem launch_port (st : Start) (rest : List Start) (o : Operands) (k : Instr) (s : State) :
    launch st rest { s with run := { s.run with operands := o, opsel := k } } = launch st rest s := by
  unfold launch
  split
  · rfl
  · exact exec_opsel _ k (s.latch st rest)

theorem step_eq_launch {s : State} {st : Start} {rest : List Start} (hh : s.run.host = st :: rest) (hb : s.busy = false) :
    step s = launch st rest s := by
  simp [step, advance, hh, hb]

/-- Settles O48: by `step_portIdle`, and by `launch_port` for the host's next start. -/
theorem oldOperandsAreNotRead : Obligations.OldOperandsAreNotRead := by
  unfold Obligations.OldOperandsAreNotRead
  constructor
  · intro s t h hb hs
    have hp := step_portIdle h hs
    refine ⟨fun n => ?_, hp.operands hb, hp.opsel hb⟩
    simp [hp.operands hb, Operands.zero]
  · intro s o k hb hh
    obtain ⟨st, rest, hh⟩ := List.exists_cons_of_ne_nil hh
    rw [step_eq_launch hh hb, step_eq_launch (s := { s with run := { s.run with operands := o, opsel := k } }) hh hb,
      launch_port]

/-! ## The registers of an operation in flight -/

/-- An operation is held at the first write that is never answered. -/
theorem exec_never {i : Instr} {j : Job} {pre post : List Slot} {k : Slot} {v : Byte} {as : List BusAnswer} {s : State}
    (hs : s.busy = false) (hj : jobOf i s.run = some j) (hb : j.body = .ok (pre ++ k :: post)) (hk : k.act = .write v)
    (hbus : s.run.bus = List.replicate (writeCount pre) .ok ++ .never :: as) :
    exec i s = .next (s.heldAt i j.ct pre k (.never :: as)) := by
  have ha : Answered (writeCount pre) s := by
    intro a ha
    simp only [hbus, List.take_left' List.length_replicate] at ha
    exact List.eq_of_mem_replicate ha
  have hd : s.run.bus.drop (writeCount pre) = .never :: as := by rw [hbus, List.drop_left' List.length_replicate]
  rw [exec_eq hj, startJob_never i j pre post k v hs hb hk ha (by rw [hd]; rfl), hd]

/-- The steps of a string, character by character. -/
theorem putstrSlots_append (cfg : Config) (ix : Nat) (x y : Bytes) :
    putstrSlots cfg ix (x ++ y) = putstrSlots cfg ix x ++ putstrSlots cfg (ix + x.length) y := by
  induction x generalizing ix with
  | nil => rfl
  | cons c cs ih => simp [putstrSlots, ih, Nat.add_assoc, Nat.add_comm]

/-- Nine steps to a character: 42_command_layer.md R164. -/
theorem putstrSlots_length (cfg : Config) (ix : Nat) (x : Bytes) : (putstrSlots cfg ix x).length = 9 * x.length := by
  induction x generalizing ix with
  | nil => rfl
  | cons c cs ih =>
    have h9 : (putcharSlots cfg ix c).length = 9 := rfl
    simp only [putstrSlots, List.length_append, List.length_cons, ih, h9]
    omega

/-- The first step of a byte: the strobe-high write of its high nibble (41_byte_protocol.md R141). -/
def firstSlot (cfg : Config) (ix : Nat) (b : Byte) (rs bl : Bool) : Slot :=
  { act := .write (expanderByte cfg (hiNibble b) rs bl true), pb := some { value := b, rs := rs, bl := bl }, idx := ix }

theorem byteSlots_eq_cons (cfg : Config) (ix : Nat) (b : Byte) (rs bl : Bool) :
    ∃ post, byteSlots cfg ix b rs bl = firstSlot cfg ix b rs bl :: post := ⟨_, rfl⟩

theorem sendSlots_eq_cons (cfg : Config) (ix : Nat) (b : Byte) (rs : Bool) (t : WaitClass) :
    ∃ post, sendSlots cfg ix b rs t = firstSlot cfg ix b rs cfg.backlight :: post := ⟨_, rfl⟩

/-- Up to a character of a string, and from there on. -/
theorem putstrSlots_at (cfg : Config) (x y : Bytes) (c : Byte) :
    ∃ post, putstrSlots cfg 0 (x ++ c :: y) =
      putstrSlots cfg 0 x ++ firstSlot cfg x.length c true cfg.backlight :: post := by
  rw [putstrSlots_append, Nat.zero_add]
  exact ⟨_, rfl⟩

/-- The selectors 1 to 4 (30_encoding.md R97). -/
theorem tokenOf_gotoRow {n : Nat} (h1 : 1 ≤ n) (h4 : n ≤ 4) : tokenOf n = { kind := .gotoRow, n := n } := by
  simp [tokenOf, h4, Nat.ne_of_gt h1]

/-- A token that selects a row expands to one SEND (43_dispatcher.md R198). -/
theorem tokenJob_gotoRow (cfg : Config) {n : Nat} (len : Nat) (h1 : 1 ≤ n) (h4 : n ≤ 4) :
    ∃ b, (tokenJob cfg n len).body = .ok (sendSlots cfg 0 b false .tShort) := by
  obtain ⟨p, hp⟩ := tokenBody_ok cfg n (by omega)
  rw [tokenOf_gotoRow h1 h4] at hp
  obtain ⟨b, rfl⟩ := gotoxyBody_ok hp
  exact ⟨b, by rw [tokenJob, tokenOf_gotoRow h1 h4]; exact hp⟩

/-- A request that is the marker and one digit (30_encoding.md R96), whatever its terminator. -/
theorem requestJob_digit (cfg : Config) {k : Byte} (t : Byte) (h0 : 0x30 ≤ k.toNat) (h9 : k.toNat ≤ 0x39) :
    requestJob cfg [0x5F, 0x5F, 0x5F, k, t] = tokenJob cfg (k.toNat - 0x30) 5 := by
  have hk : ¬ (k.toNat < 0x30 ∨ 0x39 < k.toNat) := by omega
  simp [requestJob, beginsWithMarker, Config.underscore, hk]

/-- Settles O49: in each clause the operation is held (`exec_never`) at the first step of a byte (`firstSlot`). -/
theorem transientRegisters : Obligations.TransientRegisters := by
  unfold Obligations.TransientRegisters
  intro s as hs
  refine ⟨fun hbus => ?byte, fun before c after hstr hbus => ?putstr, fun k x hrb h1 h4 hbus => ?request⟩
  case byte =>
    obtain ⟨post, hp⟩ := byteSlots_eq_cons s.run.cfg 0 s.run.operands.b s.run.operands.rs s.run.operands.bl
    exact ⟨_, exec_never (i := .byte) (pre := []) hs rfl (congrArg Except.ok hp) rfl hbus, rfl, rfl, rfl⟩
  case putstr =>
    obtain ⟨post, hp⟩ := putstrSlots_at s.run.cfg before after c
    rw [← hstr] at hp
    rw [← writeCount_putstr s.run.cfg 0 before] at hbus
    exact ⟨_, exec_never (i := .putstr) hs rfl (congrArg Except.ok hp) rfl hbus, rfl, rfl,
      putstrSlots_length s.run.cfg 0 before, rfl⟩
  case request =>
    have hj : jobOf .request s.run = some (tokenJob s.run.cfg (k.toNat - 0x30) 5) := by
      rw [← requestJob_digit s.run.cfg x (by omega) (by omega), ← hrb]; rfl
    obtain ⟨b, hb⟩ := tokenJob_gotoRow s.run.cfg (n := k.toNat - 0x30) 5 (by omega) (by omega)
    obtain ⟨post, hp⟩ := sendSlots_eq_cons s.run.cfg 0 b false .tShort
    exact ⟨_, exec_never (pre := []) hs hj (hb.trans (congrArg Except.ok hp)) rfl hbus, rfl,
      congrArg some (tokenOf_gotoRow (by omega) (by omega))⟩

end Sys2Proof.Machine
end

section
/-! SUPPORT. Reset, and the creation, discovery and removal of a display (10_state.md R35; 70_reset_and_hazards.md R260, R261,
R266). -/

namespace Sys2Proof.Machine

/-! ## Instances under their ordinals -/

theorem Fleet.state?_eq (n : Nat) (f : Fleet) :
    f.state? n = (f.members.find? fun m => m.ordinal == n).map Member.state := rfl

/-- No member is found under an ordinal that no member has. -/
theorem Fleet.find?_eq_none_of_unused {k bus : Nat} {f : Fleet} (h : f.unused k bus = true) :
    f.members.find? (fun m => m.ordinal == k) = none := by
  rw [List.find?_eq_none]
  intro m hm
  have hne := List.all_eq_true.mp h m hm
  simp only [Bool.and_eq_true, bne_iff_ne] at hne
  simpa using hne.1

/-- A filter that keeps whatever is looked for does not change what is found. -/
theorem find?_filter_of_imp {α : Type} {p q : α → Bool} {l : List α} (h : ∀ a ∈ l, q a = true → p a = true) :
    (l.filter p).find? q = l.find? q := by
  rw [List.find?_filter]
  refine List.find?_congr fun a ha => ?_
  cases hq : q a with
  | true => simp [h a ha hq]
  | false => simp

/-! ## Discovery -/

/-- The fleet after a discovery that keeps the host's duty (60_exceptions.md R237). -/
theorem Fleet.discover_eq_some {k bus : Nat} {cfg : Config} {f g : Fleet} (h : f.discover k bus cfg = some g) :
    f.unused k bus = true ∧
    g = { f with members := f.members ++ [{ ordinal := k, state := f.newcomer k bus cfg }],
                 orphans := f.orphans.filter fun o => o.bus != bus } := by
  unfold discover at h
  split at h
  · exact ⟨‹_›, (Option.some.inj h).symm⟩
  · cases h

section Discovery

variable {k bus : Nat} {cfg : Config} {f g : Fleet} (h : f.discover k bus cfg = some g)
include h

theorem Fleet.discover_lines : g.lines = f.lines := by
  obtain ⟨-, rfl⟩ := discover_eq_some h
  rfl

theorem Fleet.discover_state?_same : g.state? k = some (f.newcomer k bus cfg) := by
  obtain ⟨hu, rfl⟩ := discover_eq_some h
  simp [state?_eq, List.find?_append, find?_eq_none_of_unused hu]

theorem Fleet.discover_state?_other {n : Nat} (hn : n ≠ k) : g.state? n = f.state? n := by
  obtain ⟨-, rfl⟩ := discover_eq_some h
  simp [state?_eq, List.find?_append, hn.symm]

theorem Fleet.discover_pinsAt_other {b : Nat} (hb : b ≠ bus) : g.pinsAt b = f.pinsAt b := by
  obtain ⟨-, rfl⟩ := discover_eq_some h
  have hnew : ((f.newcomer k bus cfg).device.bus == b) = false := by simpa [newcomer, State.create] using hb.symm
  have horph : (f.orphans.filter fun o => o.bus != bus).find? (fun o => o.bus == b) =
      f.orphans.find? (fun o => o.bus == b) :=
    find?_filter_of_imp fun o _ ho => by simpa [eq_of_beq ho] using hb
  simp [pinsAt, List.find?_append, hnew, horph]

end Discovery

/-! ## Removal -/

/-- The fleet after a removal: the member was there, and its operation had ended. -/
theorem Fleet.remove_eq_some {k : Nat} {f g : Fleet} (h : f.remove k = some g) :
    ∃ s, f.state? k = some s ∧
      g = { f with members := f.members.filter fun m => m.ordinal != k,
                   orphans := { bus := s.device.bus, xreg := s.xreg } :: f.orphans } := by
  unfold remove at h
  split at h
  · cases h
  · split at h
    · cases h
    · exact ⟨_, ‹_›, (Option.some.inj h).symm⟩

theorem Fleet.Inv.eq_of_ordinal_eq {f : Fleet} (hf : f.Inv) {m n : Member} (hm : m ∈ f.members) (hn : n ∈ f.members)
    (h : m.ordinal = n.ordinal) : m = n := List.inj_on_of_nodup_map hf.ordinals hm hn h

theorem Fleet.Inv.eq_of_bus_eq {f : Fleet} (hf : f.Inv) {m n : Member} (hm : m ∈ f.members) (hn : n ∈ f.members)
    (h : m.state.device.bus = n.state.device.bus) : m = n :=
  List.inj_on_of_nodup_map (List.nodup_append.mp hf.buses).1 hm hn h

/-- A member of a fleet with its invariant is the only one behind its bus handle. -/
theorem Fleet.Inv.pinsAt_of_mem {f : Fleet} (hf : f.Inv) {m : Member} (hm : m ∈ f.members) :
    f.pinsAt m.state.device.bus = some m.state.xreg := by
  unfold pinsAt
  cases ha : f.members.find? (fun a => a.state.device.bus == m.state.device.bus) with
  | none => exact absurd (beq_self_eq_true _) (List.find?_eq_none.mp ha m hm)
  | some a =>
    have hbus := List.find?_some ha
    rw [hf.eq_of_bus_eq (List.mem_of_find?_eq_some ha) hm (eq_of_beq hbus)]

section Removal

variable {k : Nat} {f g : Fleet} (h : f.remove k = some g)
include h

theorem Fleet.remove_lines : g.lines = f.lines := by
  obtain ⟨s, -, rfl⟩ := remove_eq_some h
  rfl

theorem Fleet.remove_state?_same : g.state? k = none := by
  obtain ⟨s, -, rfl⟩ := remove_eq_some h
  simp [state?_eq]

theorem Fleet.remove_state?_other {n : Nat} (hn : n ≠ k) : g.state? n = f.state? n := by
  obtain ⟨s, -, rfl⟩ := remove_eq_some h
  have hmem : (f.members.filter fun m => m.ordinal != k).find? (fun m => m.ordinal == n) =
      f.members.find? (fun m => m.ordinal == n) :=
    find?_filter_of_imp fun m _ hm => by simpa [eq_of_beq hm] using hn
  simp only [state?_eq, hmem]

/-- The expander of the member removed is an orphan with the level its pins had; every other is where it was. -/
theorem Fleet.remove_pinsAt (hf : f.Inv) (b : Nat) : g.pinsAt b = f.pinsAt b := by
  obtain ⟨s, hs, rfl⟩ := remove_eq_some h
  obtain ⟨m, hm, hk, rfl⟩ := exists_member_of_state? hs
  by_cases hb : m.state.device.bus = b
  · subst hb
    have hnone : (f.members.filter fun a => a.ordinal != k).find? (fun a => a.state.device.bus == m.state.device.bus) =
        none := by
      simp only [List.find?_eq_none, List.mem_filter, beq_iff_eq, bne_iff_ne, and_imp]
      intro a ha hak hab
      exact hak (hf.eq_of_bus_eq ha hm hab ▸ hk)
    rw [hf.pinsAt_of_mem hm]
    simp [pinsAt, hnone]
  · have hmem : (f.members.filter fun a => a.ordinal != k).find? (fun a => a.state.device.bus == b) =
        f.members.find? (fun a => a.state.device.bus == b) := by
      refine find?_filter_of_imp fun a ha hab => bne_iff_ne.mpr fun hak => hb ?_
      rw [← hf.eq_of_ordinal_eq ha hm (hak.trans hk.symm)]
      exact eq_of_beq hab
    simp [pinsAt, hmem, hb]

end Removal

/-! ## Reset and creation -/

/-- Settles O55: creation and reset by evaluation, a step of an idle block by `step_idle`, discovery and removal by the
lemmas on them above. -/
theorem resetIsIdle : Obligations.ResetIsIdle := by
  unfold Obligations.ResetIsIdle
  refine ⟨fun d cfg => ⟨step_idle rfl rfl, rfl, rfl, rfl, fun _ => ⟨rfl, rfl, rfl, rfl⟩, rfl⟩,
    rfl, rfl, rfl, rfl, rfl, rfl, rfl, step_idle (s := State.reset) rfl rfl,
    fun f g k bus cfg h => ?discovery, fun f g k hf h => ?removal⟩
  case discovery =>
    exact ⟨Fleet.discover_state?_same h, Fleet.discover_lines h, fun _ => Fleet.discover_state?_other h,
      fun _ => Fleet.discover_pinsAt_other h⟩
  case removal =>
    exact ⟨Fleet.remove_state?_same h, Fleet.remove_lines h, fun _ => Fleet.remove_state?_other h,
      Fleet.remove_pinsAt h hf⟩

end Sys2Proof.Machine
end

section
/-! SUPPORT. The statements of 20_memory.md: the register writes of a BYTE and what the controller latches of them (R58), a
start on a busy block (R66), a write whose answer is late (R51), and XREG (R52). -/

namespace Sys2Proof.Machine

/-! ## The pins of an expander byte (30_encoding.md R81) -/

theorem getElem_bitAt (b : Bool) (k : Nat) {i : Nat} (hi : i < 8) : (bitAt b k)[i] = (b && decide (i = k)) := by
  cases b with
  | false => simp [bitAt]
  | true => rw [Bool.eq_iff_iff]; simp [bitAt]; omega

section Pins

variable (d : Nibble) (bl e rs : Bool)

@[simp] theorem pinData_assembleX : pinData (assembleX d bl e rs) = d := by revert d bl e rs; decide

@[simp] theorem pinBl_assembleX : pinBl (assembleX d bl e rs) = bl := by
  simp [pinBl, assembleX, getElem_bitAt, Config.dataLow, Config.blBit, Config.strobeBit, Config.rsBit]

@[simp] theorem pinStrobe_assembleX : pinStrobe (assembleX d bl e rs) = e := by
  simp [pinStrobe, assembleX, getElem_bitAt, Config.dataLow, Config.blBit, Config.strobeBit, Config.rsBit]

@[simp] theorem pinRs_assembleX : pinRs (assembleX d bl e rs) = rs := by
  simp [pinRs, assembleX, getElem_bitAt, Config.dataLow, Config.blBit, Config.strobeBit, Config.rsBit]

/-- The strobe-low byte of a pulse is the strobe-high one with the strobe bit cleared (40_nibble_encoder.md R122). -/
theorem assembleX_clear_strobe : assembleX d bl true rs &&& 0xFD = assembleX d bl false rs := by
  revert d bl rs; decide

end Pins

/-- PLACE is its own inverse (30_encoding.md R101). -/
@[simp] theorem place_place (p : Placement) (v : Nibble) : place p (place p v) = v := by
  cases p with
  | reversed => revert v; decide
  | straight => rfl

/-! ## What the controller latches (40_nibble_encoder.md R128) -/

theorem latchOf_eq (p : Placement) (a b : Byte) :
    latchOf p a b = if pinStrobe a && !pinStrobe b && b == a &&& 0xFD then some (place p (pinData b), pinRs b, pinBl b)
      else none := rfl

/-- A write with the strobe high latches nothing. -/
theorem latchOf_eq_none {p : Placement} {a b : Byte} (h : pinStrobe b = true) : latchOf p a b = none := by
  simp [latchOf_eq, h]

/-- The falling strobe of a pulse latches its nibble and its flags. -/
theorem latchOf_expanderByte (cfg : Config) (v : Nibble) (rs bl : Bool) :
    latchOf cfg.placement (expanderByte cfg v rs bl true) (expanderByte cfg v rs bl false) = some (v, rs, bl) := by
  simp only [latchOf_eq, expanderByte, assembleX_clear_strobe]
  simp

@[simp] theorem viewFrom_nil (p : Placement) (prev : Option Byte) : viewFrom p prev [] = [] := rfl
@[simp] theorem viewFrom_d (p : Placement) (prev : Option Byte) (t : WaitClass) (es : List Event) :
    viewFrom p prev (.d t :: es) = viewFrom p prev es := rfl
@[simp] theorem viewFrom_wErr (p : Placement) (prev : Option Byte) (v : Byte) (es : List Event) :
    viewFrom p prev (.wErr v :: es) = viewFrom p none es := rfl
@[simp] theorem viewFrom_w (p : Placement) (prev : Option Byte) (b : Byte) (es : List Event) :
    viewFrom p prev (.w b :: es) = (prev.bind fun a => latchOf p a b).toList ++ viewFrom p (some b) es := rfl

/-- The strobe-high write of a pulse adds nothing to the view, whatever was written before it. -/
theorem viewFrom_strobe_high (cfg : Config) (prev : Option Byte) (v : Nibble) (rs bl : Bool) (es : List Event) :
    viewFrom cfg.placement prev (.w (expanderByte cfg v rs bl true) :: es) =
      viewFrom cfg.placement (some (expanderByte cfg v rs bl true)) es := by
  have h (a : Byte) : latchOf cfg.placement a (expanderByte cfg v rs bl true) = none :=
    latchOf_eq_none (pinStrobe_assembleX ..)
  cases prev <;> simp [h]

/-- A whole pulse is seen once, whatever was written before it. -/
theorem viewFrom_pulseTrace_append (cfg : Config) (prev : Option Byte) (v : Nibble) (rs bl : Bool) (es : List Event) :
    viewFrom cfg.placement prev (pulseTrace cfg v rs bl ++ es) =
      (v, rs, bl) :: viewFrom cfg.placement (some (expanderByte cfg v rs bl false)) es := by
  rw [pulseTrace, List.cons_append, viewFrom_strobe_high]
  simp [latchOf_expanderByte]

/-- 41_byte_protocol.md R144: both nibbles of a byte are seen, the high one first. -/
theorem decodedView_byteTrace (cfg : Config) (b : Byte) (rs bl : Bool) :
    decodedView cfg.placement (byteTrace cfg b rs bl) = [(b.extractLsb' 4 4, rs, bl), (b.extractLsb' 0 4, rs, bl)] := by
  rw [decodedView, byteTrace, viewFrom_pulseTrace_append, ← List.append_nil (pulseTrace _ (b.extractLsb' 0 4) _ _),
    viewFrom_pulseTrace_append, viewFrom_nil]

/-- Settles O10: BYTE expands to two pulses, which succeed (`exec_ok`) and are both seen (`decodedView_byteTrace`). -/
theorem byteCompletes : Obligations.ByteCompletes := by
  unfold Obligations.ByteCompletes
  intro s hs ha
  exact ⟨exec_ok (i := .byte) rfl rfl hs ha, decodedView_byteTrace ..⟩

/-! ## A start on a busy block -/

/-- On a busy block an instruction that has an expansion is refused as a second start. -/
theorem exec_startWhileBusy {i : Instr} {j : Job} {s : State} (hb : s.busy = true) (hj : jobOf i s.run = some j) :
    exec i s = .refused .startWhileBusy := (exec_eq hj).trans (startJob_busy i j hb)

/-- On a busy block every instruction is refused. -/
theorem exec_busy_refused (i : Instr) {s : State} (hb : s.busy = true) : ∃ r, exec i s = .refused r := by
  cases hj : jobOf i s.run with
  | some j => exact ⟨_, exec_startWhileBusy hb hj⟩
  | none =>
    obtain ⟨n, hn⟩ := exec_reserved hj
    exact ⟨_, hn⟩

/-- On a busy block every start is refused, a word that is no row of its format included. -/
theorem launch_busy_refused (st : Start) (rest : List Start) {s : State} (hb : s.busy = true) :
    ∃ r, launch st rest s = .refused r := by
  unfold launch
  split
  · exact ⟨_, rfl⟩
  · exact exec_busy_refused _ hb

/-- Settles O38: every start comes to `launch`, and every instruction with an expansion to `startJob`. -/
theorem busyStartRefused : Obligations.BusyStartRefused := by
  unfold Obligations.BusyStartRefused
  refine fun s hb => ⟨fun i => exec_busy_refused i hb, ?_, ?_⟩
  · rintro i ⟨j, hj⟩
    exact exec_startWhileBusy hb hj
  · intro st rest hh hw
    have hstep : step s = launch st rest s := by simp [step, advance, hh, hw]
    exact hstep ▸ launch_busy_refused st rest hb

/-! ## A write whose answer is late -/

/-- The first answer that is not `ok` is the one to the write after those that succeed. -/
theorem Answered.eq_length {n : Nat} {s : State} {before after : List BusAnswer} {a : BusAnswer} (h : Answered n s)
    (hbus : s.run.bus = before ++ a :: after) (hok : ∀ b ∈ before, b = .ok) (ha : a ≠ .ok)
    (hn : (s.run.bus.drop n).headD .ok ≠ .ok) : n = before.length := by
  rw [Answered, hbus] at h
  rw [hbus] at hn
  rcases Nat.lt_trichotomy n before.length with hlt | heq | hgt
  · rw [List.drop_append_of_le_length hlt.le, List.drop_eq_getElem_cons hlt] at hn
    exact absurd (hok _ (List.getElem_mem hlt)) hn
  · exact heq
  · have hmem : a ∈ (before ++ a :: after).take n := by
      rw [List.take_append, List.take_cons (by omega)]; simp
    exact absurd (h a hmem) ha

/-- An operation in flight has been held at the write whose answer is late. -/
theorem exec_heldAt_late {i : Instr} {s t : State} {before after : List BusAnswer}
    (hbus : s.run.bus = before ++ .late :: after) (hok : ∀ a ∈ before, a = .ok) (h : exec i s = .next t)
    (hb : t.busy = true) :
    s.busy = false ∧ ∃ j pre k v post, jobOf i s.run = some j ∧ j.body = .ok (pre ++ k :: post) ∧ k.act = .write v ∧
      writeCount pre = before.length ∧ t = s.heldAt i j.ct pre k after := by
  obtain ⟨hs, j, hj, ⟨_, -, rfl⟩ | ⟨_, -, -, rfl⟩ | ⟨pre, k, v, post, hp, hk, ha, hc⟩⟩ := exec_cases h
  · cases hb
  · cases hb
  refine ⟨hs, j, pre, k, v, post, hj, hp, hk, ?_⟩
  obtain ⟨-, rfl⟩ | ⟨he, rfl⟩ | ⟨he, rfl⟩ := hc
  · cases hb
  · have hn := ha.eq_length hbus hok (by decide) (by rw [he]; decide)
    exact ⟨hn, by simp [hbus, hn, ← List.drop_drop]⟩
  · have hn := ha.eq_length hbus hok (by decide) (by rw [he]; decide)
    simp [hbus, hn] at he

/-- The same state with other answers to come. -/
def State.withBus (bus : List BusAnswer) (s : State) : State := { s with run := { s.run with bus := bus } }

/-- An operation held at a step, with the answers that come then, is the operation that has come to that step with those
answers. -/
theorem heldAt_eq_enter {i : Instr} {c : Option ControlToken} {pre : List Slot} {k : Slot} {s : State}
    {before after : List BusAnswer} (hn : writeCount pre = before.length) :
    s.heldAt i c pre k after =
      ((State.begin i c (s.withBus (before ++ after))).performAll pre).enter k := by
  simp [State.performAll_eq, State.heldAt, State.begin, State.enter, State.withBus, hn]

/-- PB and IDX are those of the step that is performed, whatever they were before it. -/
theorem drive_enter (c : Option Nat) (k : Slot) (ks : List Slot) (s : State) :
    drive c (k :: ks) (s.enter k) = drive c (k :: ks) s := rfl

/-- Settles O44: the operation is held at the late write (`exec_heldAt_late`); going on from there (`resume_held`) runs the
same steps from the same state as the operation with the other answers, which has come to that write (`drive_append`). -/
theorem lateAnswerChangesNothing : Obligations.LateAnswerChangesNothing := by
  unfold Obligations.LateAnswerChangesNothing
  intro i s t before after hbus hok hhost h hb
  obtain ⟨hs, j, pre, k, v, post, hj, hp, hk, hn, rfl⟩ := exec_heldAt_late hbus hok h hb
  have ha : Answered (writeCount pre) (State.begin i j.ct (s.withBus (before ++ after))) := by
    simpa [Answered, State.withBus, hn] using hok
  calc step (s.heldAt i j.ct pre k after)
    _ = resume (s.heldAt i j.ct pre k after) := step_resume rfl hhost
    _ = .next (drive j.count (k :: post) (s.heldAt i j.ct pre k after)) :=
        resume_held rfl ((jobOf_congr i rfl rfl).trans hj) hp hk rfl
    _ = .next (drive j.count (pre ++ k :: post) (State.begin i j.ct (s.withBus (before ++ after)))) := by
        rw [heldAt_eq_enter hn, drive_enter, drive_append _ _ _ _ ha]
    _ = startJob i j (s.withBus (before ++ after)) := by simp [startJob, State.withBus, hs, hp]
    _ = exec i (s.withBus (before ++ after)) :=
        (exec_eq (s := s.withBus _) ((jobOf_bus i _ s.run).trans hj)).symm

/-! ## XREG -/

/-- The refused write of a trace that ends in one is that one. -/
theorem wErr_mem_eventsOf_concat {p : List Slot} {u v : Byte} (h : Event.wErr v ∈ eventsOf p ++ [.wErr u]) : v = u := by
  simpa [wErr_not_mem_eventsOf] using h

/-- Settles O45: by the cases of `exec_cases`. -/
theorem xregHoldsLastWrite : Obligations.XregHoldsLastWrite := by
  unfold Obligations.XregHoldsLastWrite
  intro i s t h
  obtain ⟨-, j, -, ⟨e, -, rfl⟩ | ⟨p, -, -, rfl⟩ | ⟨pre, k, u, post, -, -, -, ⟨-, rfl⟩ | ⟨-, rfl⟩ | ⟨-, rfl⟩⟩⟩ := exec_cases h
  case inr.inr.inl =>
    refine ⟨fun hv => absurd (List.mem_append_right _ (List.mem_singleton_self _)) (hv u), fun v hv => ?_⟩
    obtain rfl := wErr_mem_eventsOf_concat hv
    by_cases hl : Config.failedWriteLands s.device.bus s.free <;> simp [State.afterBusError, hl, xregAfter]
  all_goals exact ⟨fun _ => rfl, fun _ _ => .inl rfl⟩

end Sys2Proof.Machine
end

section
/-! SUPPORT. The statements of 30_encoding.md: the encoder and the decoder are inverses of each other (R80 to R106), the bits of
the expander byte (R81, R82, R101), and the words of formats C, N, D and X run alone (R84 to R93). -/

namespace Sys2Proof.Machine

/-- Two bytes are equal if their eight bits are. -/
theorem byte_eq_iff {x y : Byte} :
    x = y ↔ x[7] = y[7] ∧ x[6] = y[6] ∧ x[5] = y[5] ∧ x[4] = y[4] ∧ x[3] = y[3] ∧ x[2] = y[2] ∧ x[1] = y[1] ∧
      x[0] = y[0] := by
  constructor
  · rintro rfl; simp
  · rintro ⟨h7, h6, h5, h4, h3, h2, h1, h0⟩
    refine BitVec.eq_of_getElem_eq_iff.mpr fun k hk => ?_
    interval_cases k <;> assumption

/-- `bytes` are a word of format `f` that spells the well-formed instruction `i`. -/
def Spells (f : Format) (bytes : Bytes) (i : Instr) : Prop := encode i = bytes ∧ i.format = f ∧ i.wellFormed = true

/-! ## Formats P, N and D: selectors, initialisation nibbles, data bytes (R90, R93, R99) -/

theorem spells_of_decodeP {w : Byte} {i : Instr} (h : decodeP w = .ok i) : Spells .P [w] i := by
  unfold decodeP at h
  split at h <;> cases h
  all_goals
    obtain rfl := (BitVec.toNat_eq_nat.mp ‹w.toNat = _›).2
    exact ⟨rfl, rfl, rfl⟩

theorem spells_of_decodeN {w : Byte} {i : Instr} (h : decodeN w = .ok i) : Spells .N [w] i := by
  unfold decodeN at h
  split at h <;> cases h
  all_goals
    obtain rfl := (BitVec.toNat_eq_nat.mp ‹w.toNat = _›).2
    exact ⟨rfl, rfl, rfl⟩

theorem spells_of_decodeD {w : Byte} {i : Instr} (h : decodeD w = .ok i) : Spells .D [w] i := by
  cases h; exact ⟨rfl, rfl, rfl⟩

/-! ## Format C: command bytes (R84 to R91) -/

theorem decodeC_cmdEntry (id sh : Bool) : decodeC (0x04 ||| bitAt id 1 ||| bitAt sh 0) = .ok (.cmdEntry id sh) := by
  simp [decodeC, getElem_bitAt]

theorem decodeC_cmdDispctl (on cur blk : Bool) :
    decodeC (0x08 ||| bitAt on 2 ||| bitAt cur 1 ||| bitAt blk 0) = .ok (.cmdDispctl on cur blk) := by
  simp [decodeC, getElem_bitAt]

theorem decodeC_cmdFuncset (dl n f : Bool) :
    decodeC (0x20 ||| bitAt dl 4 ||| bitAt n 3 ||| bitAt f 2) = .ok (.cmdFuncset dl n f) := by
  simp [decodeC, getElem_bitAt]

theorem decodeC_cmdSetddram (a : BitVec 7) : decodeC (0x80 ||| a.setWidth 8) = .ok (.cmdSetddram a) := by
  have ha : (0x80#8 ||| a.setWidth 8).extractLsb' 0 7 = a := by
    ext k hk
    interval_cases k <;> simp
  simp [decodeC, ha]

/-- The branches of `decodeC` fix every bit of the byte that is not a field of the instruction. -/
theorem spells_of_decodeC {w : Byte} {i : Instr} (h : decodeC w = .ok i) : Spells .C [w] i := by
  unfold decodeC at h
  split_ifs at h <;> cases h
  all_goals
    refine ⟨?_, rfl, rfl⟩
    simp_all [encode, byte_eq_iff, getElem_bitAt]

/-! ## Format X: expander bytes (R81) -/

theorem decodeX_eq (w : Byte) :
    decodeX w =
      if pinZero w then .error .zeroBitSet else .ok (.xbyte (pinData w) (pinBl w) (pinStrobe w) (pinRs w)) := rfl

theorem encode_xbyte (d : Nibble) (bl e rs : Bool) : encode (.xbyte d bl e rs) = [assembleX d bl e rs] := rfl

@[simp] theorem pinZero_assembleX (d : Nibble) (bl e rs : Bool) : pinZero (assembleX d bl e rs) = false :=
  assembleX_zeroBit d bl e rs

/-- A byte with bit 2 zero is the one assembled from its pins. -/
theorem assembleX_pins {w : Byte} (h : pinZero w = false) :
    assembleX (pinData w) (pinBl w) (pinStrobe w) (pinRs w) = w := by
  have h2 : w[2] = false := h
  simp [byte_eq_iff, h2, assembleX, getElem_bitAt, pinData, hiNibble, pinBl, pinStrobe, pinRs, Config.dataLow,
    Config.blBit, Config.strobeBit, Config.rsBit]

theorem decodeX_assembleX (d : Nibble) (bl e rs : Bool) : decodeX (assembleX d bl e rs) = .ok (.xbyte d bl e rs) := by
  simp [decodeX_eq]

theorem spells_of_decodeX {w : Byte} {i : Instr} (h : decodeX w = .ok i) : Spells .X [w] i := by
  rw [decodeX_eq] at h
  split at h
  · cases h
  next hz =>
    cases h
    exact ⟨by rw [encode_xbyte, assembleX_pins (by simpa using hz)], rfl, rfl⟩

/-! ## Format Q: request forms (R94 to R98) -/

/-- A request whose text does not begin with the marker is a literal text. -/
theorem decodeRequest_text {text : Bytes} (t : Byte) (h : beginsWithMarker text = false) :
    decodeRequest (text ++ [t]) = .reqText text t := by
  simp [decodeRequest, h]

/-- A request whose text begins with the marker is a control token. -/
theorem decodeRequest_marker (tail : Bytes) (t : Byte) :
    decodeRequest (Config.marker ++ tail ++ [t]) = decodeToken tail t := by
  have h : beginsWithMarker (Config.marker ++ tail) = true := beginsWithMarker_iff.2 ⟨tail, rfl⟩
  unfold decodeRequest
  simp only [List.getLast?_concat, List.dropLast_concat, h, if_true]
  rfl

/-- What follows the marker is no selector: the token is malformed (R196). -/
theorem decodeToken_malformed {tail : Bytes} (t : Byte) (h : isSelector tail = false) :
    decodeToken tail t = .reqMalformed tail t := by
  match tail with
  | [] | _ :: _ :: _ => rfl
  | [k] =>
    have hk : ¬ (0x30 ≤ k.toNat ∧ k.toNat ≤ 0x39) := by simpa [isSelector, isDigit] using h
    dsimp only [decodeToken]
    split
    case h_11 => rfl
    all_goals omega

/-- Whatever follows the marker, the form it decodes to is spelled by just those bytes. -/
theorem spells_decodeToken (tail : Bytes) (t : Byte) :
    Spells .Q (Config.marker ++ tail ++ [t]) (decodeToken tail t) := by
  match tail with
  | [] | _ :: _ :: _ => exact ⟨rfl, rfl, rfl⟩
  | [k] =>
    cases hs : isSelector [k] with
    | false =>
      rw [decodeToken_malformed t hs]
      exact ⟨rfl, rfl, by simp [Instr.wellFormed, hs]⟩
    | true =>
      obtain ⟨h0, h9⟩ : 0x30 ≤ k.toNat ∧ k.toNat ≤ 0x39 := by simpa [isSelector, isDigit] using hs
      obtain ⟨n, hn⟩ : ∃ n, k.toNat = n := ⟨_, rfl⟩
      rw [hn] at h0 h9
      obtain rfl := (BitVec.toNat_eq_nat.mp hn).2
      interval_cases n <;> exact ⟨rfl, rfl, rfl⟩

theorem spells_decodeRequest (rb : Bytes) : Spells .Q rb (decodeRequest rb) := by
  rcases List.eq_nil_or_concat rb with rfl | ⟨text, t, rfl⟩
  · exact ⟨rfl, rfl, rfl⟩
  · rw [List.concat_eq_append]
    cases hm : beginsWithMarker text with
    | true =>
      obtain ⟨tail, rfl⟩ := beginsWithMarker_iff.1 hm
      rw [decodeRequest_marker]
      exact spells_decodeToken tail t
    | false =>
      rw [decodeRequest_text t hm]
      exact ⟨rfl, rfl, by simp [Instr.wellFormed, hm]⟩

/-! ## Decoding and encoding -/

/-- Settles O3: the rows with operands by the lemmas of their format; every other row's word is a constant, or the marker,
a digit and a terminator, and decodes by evaluation. -/
theorem decodeOfEncode : Obligations.DecodeOfEncode := by
  unfold Obligations.DecodeOfEncode
  intro i hi
  cases i
  case reqText text t => exact congrArg Except.ok (decodeRequest_text t (by simpa [Instr.wellFormed] using hi))
  case reqMalformed tail t =>
    exact congrArg Except.ok
      ((decodeRequest_marker tail t).trans (decodeToken_malformed t (by simpa [Instr.wellFormed] using hi)))
  case cmdEntry id sh => exact decodeC_cmdEntry id sh
  case cmdDispctl on cur blk => exact decodeC_cmdDispctl on cur blk
  case cmdFuncset dl n f => exact decodeC_cmdFuncset dl n f
  case cmdSetddram a => exact decodeC_cmdSetddram a
  case xbyte d bl e rs => exact decodeX_assembleX d bl e rs
  all_goals rfl

/-- Settles O4: format by format, a lemma `spells_of_decode` each. -/
theorem encodeOfDecode : Obligations.EncodeOfDecode := by
  unfold Obligations.EncodeOfDecode
  intro f bytes i h
  unfold decode at h
  split at h
  · cases h; exact spells_decodeRequest _
  · exact spells_of_decodeP h
  · exact spells_of_decodeN h
  · exact spells_of_decodeC h
  · exact spells_of_decodeD h
  · exact spells_of_decodeX h
  · cases h

/-- Settles O5: by evaluation of the decoder. -/
theorem decodesSampleWords : Obligations.DecodesSampleWords := by
  unfold Obligations.DecodesSampleWords
  exact ⟨rfl, rfl, rfl, rfl, rfl, rfl, rfl, rfl, rfl, rfl, rfl⟩

/-! ## The bits of the expander byte (R81, R82, 40_nibble_encoder.md R121, R122) -/

/-- `rev4` mirrors the bits of a nibble (00_scope.md R10). -/
theorem getLsbD_rev4 (v : Nibble) {k : Nat} (hk : k < 4) : (rev4 v).getLsbD k = v.getLsbD (3 - k) := by
  simp only [rev4, BitVec.getLsbD_append]
  interval_cases k <;> simp

/-- Bits 7:4 of the expander byte are the placed nibble. -/
theorem getLsbD_expanderByte_data (cfg : Config) (v : Nibble) (rs bl e : Bool) {k : Nat} (hk : k < 4) :
    (expanderByte cfg v rs bl e).getLsbD (4 + k) = (place cfg.placement v).getLsbD k := by
  rw [← pinData_assembleX (place cfg.placement v) bl e rs]
  simp [pinData, hiNibble, expanderByte, hk]

/-- The strobe-high byte of a pulse is the strobe-low one with the strobe bit set (R82). -/
theorem assembleX_set_strobe (d : Nibble) (bl rs : Bool) :
    assembleX d bl false rs ||| 0x02 = assembleX d bl true rs := by
  simp [byte_eq_iff, assembleX, getElem_bitAt, Config.dataLow, Config.blBit, Config.strobeBit, Config.rsBit]

/-- Settles O1: the flags by the lemmas of the pins, the data bits by those of the placement. -/
theorem expanderByteLayout : Obligations.ExpanderByteLayout := by
  unfold Obligations.ExpanderByteLayout
  intro cfg v rs bl e x
  have hdata {k : Nat} (hk : k < 4) : x.getLsbD (4 + k) = (place cfg.placement v).getLsbD k :=
    getLsbD_expanderByte_data cfg v rs bl e hk
  refine ⟨pinRs_assembleX .., pinStrobe_assembleX .., pinZero_assembleX .., pinBl_assembleX .., fun hp => ?_, fun hp => ?_,
    (assembleX_set_strobe ..).symm, (assembleX_clear_strobe ..).symm⟩
  · have hrev {k : Nat} (hk : k < 4) : x.getLsbD (4 + k) = v.getLsbD (3 - k) := by
      rw [hdata hk, hp]; exact getLsbD_rev4 v hk
    exact ⟨hrev (k := 3) (by decide), hrev (k := 2) (by decide), hrev (k := 1) (by decide), hrev (k := 0) (by decide)⟩
  · rw [hp] at hdata
    exact ⟨hdata (k := 3) (by decide), hdata (k := 2) (by decide), hdata (k := 1) (by decide), hdata (k := 0) (by decide)⟩

/-- Settles O2: `rev4` is PLACE under the placement reversed. -/
theorem placementIsInvolution : Obligations.PlacementIsInvolution := by
  unfold Obligations.PlacementIsInvolution
  exact fun v => ⟨place_place .reversed v, fun p => place_place p v⟩

/-! ## The words of formats C, N, D and X run alone (R84 to R93) -/

/-- A base with the address below it is the bit 1 before the seven bits of the address (R91). -/
theorem cmdSetddram_setWidth (a : BitVec 7) : cmdSetddram (a.setWidth 8) = 1#1 ++ a := by
  refine BitVec.eq_of_getLsbD_eq fun k hk => ?_
  simp only [cmdSetddram, Config.setDdramBit, BitVec.getLsbD_or, BitVec.getLsbD_append]
  interval_cases k <;> simp

/-- Settles O34: each row is one SEND (`exec_ok`); a flag's bit evaluates to its value or to zero, and the byte with an address
is `cmdSetddram_setWidth`. -/
theorem commandWordsComplete : Obligations.CommandWordsComplete := by
  unfold Obligations.CommandWordsComplete
  intro s x y z a hs ha c sends f
  have hsend {i : Instr} {b : Byte} {t : WaitClass}
      (hj : jobOf i s.run = some (.plain (sendSlots s.run.cfg 0 b false t))) : sends i b t := exec_ok hj rfl hs ha
  refine ⟨hsend rfl, hsend rfl, hsend rfl, hsend rfl, hsend rfl, ?_⟩
  rw [← cmdSetddram_setWidth]
  exact hsend rfl

/-- A command row expands to one SEND with `rs` = 0, `T_LONG` after clear and home only; with the standard codes its byte is the
row's encoding. -/
theorem jobOf_command {i : Instr} {r : Run} (hf : i.format = .C) :
    ∃ b d, jobOf i r = some (.plain (sendSlots r.cfg 0 b false d)) ∧
      (r.cfg.codes = Config.standardCodes → encode i = [b]) ∧ (d = .tLong ↔ i = .cmdClear ∨ i = .cmdHome) := by
  cases i <;> cases hf
  all_goals
    refine ⟨_, _, rfl, fun hc => ?_, by simp⟩
    simp [encode, cmdEntry, cmdDispctl, cmdFuncset, cmdSetddram, hc, Config.standardCodes, Config.setDdramBit]

/-- Settles O35: the trace of an operation that ended with `Ok` is that of its expansion. -/
theorem commandWordsSendTheirEncoding : Obligations.CommandWordsSendTheirEncoding := by
  unfold Obligations.CommandWordsSendTheirEncoding
  intro i s t hf hc h hb ho
  obtain ⟨b, d, hj, henc, hd⟩ := jobOf_command (r := s.run) hf
  obtain ⟨j, p, hj', hp, ht⟩ := exec_trace_of_ok h hb ho
  cases hj.symm.trans hj'
  cases hp
  exact ⟨b, d, henc hc, ht, hd⟩

/-- Settles O36: each row is one SEND, one pulse with its delay, or one register write (`exec_ok`). -/
theorem nibblesDataAndExpanderBytesComplete : Obligations.NibblesDataAndExpanderBytesComplete := by
  unfold Obligations.NibblesDataAndExpanderBytesComplete
  intro s b n x y z hs ha
  exact ⟨exec_ok (i := .nibFs8) rfl rfl hs (ha.mono (by simp)), exec_ok (i := .nibFs4) rfl rfl hs (ha.mono (by simp)),
    exec_ok (i := .data b) rfl rfl hs ha, exec_ok (i := .xbyte n x y z) rfl rfl hs (ha.mono (by simp)),
    encode_xbyte n x y z⟩

/-- Settles O37: each reserved selector's meaning is its refusal. -/
theorem reservedSelectorsRefused : Obligations.ReservedSelectorsRefused := by
  unfold Obligations.ReservedSelectorsRefused
  exact fun _ => ⟨rfl, rfl, rfl, rfl, rfl⟩

end Sys2Proof.Machine
end

section
/-! SUPPORT. The statements of 40_nibble_encoder.md: the traces of a NIBBLE (R120, R123, R124), how many writes it makes (R125),
what the controller latches of them and what stays on the pins (R127 to R129); and that whatever a successful operation sends
comes in whole pulses (R123). -/

namespace Sys2Proof.Machine

/-! ## A write that is refused -/

/-- An operation ends with `BusError` at the first write that is refused. -/
theorem exec_busError {i : Instr} {j : Job} {pre post : List Slot} {k : Slot} {v : Byte} {as : List BusAnswer} {s : State}
    (hs : s.busy = false) (hj : jobOf i s.run = some j) (hb : j.body = .ok (pre ++ k :: post)) (hk : k.act = .write v)
    (hbus : s.run.bus = List.replicate (writeCount pre) .ok ++ .err :: as) :
    exec i s = .next (s.afterBusError (eventsOf pre) v) := by
  have ha : Answered (writeCount pre) s := by
    intro a ha
    rw [hbus, List.take_left' List.length_replicate] at ha
    exact List.eq_of_mem_replicate ha
  have he : (s.run.bus.drop (writeCount pre)).headD .ok = .err := by
    rw [hbus, List.drop_left' List.length_replicate, List.headD_cons]
  rw [exec_eq hj, startJob_busError i j pre post k v hs hb hk ha he]

/-! ## The ways a NIBBLE can go -/

/-- Settles O6: NIBBLE expands to one pulse, which succeeds (`exec_ok`). -/
theorem nibbleCompletes : Obligations.NibbleCompletes := by
  unfold Obligations.NibbleCompletes
  exact fun s hs ha => exec_ok (i := .nibble) rfl rfl hs ha

/-- Settles O7: the write refused is the first step of the pulse, or the third (`exec_busError`). -/
theorem nibbleFailures : Obligations.NibbleFailures := by
  unfold Obligations.NibbleFailures
  intro s as hs xh xl
  exact ⟨fun hbus => exec_busError (i := .nibble) (pre := []) hs rfl rfl rfl hbus,
    fun hbus => exec_busError (i := .nibble) (pre := [_, _]) hs rfl rfl rfl hbus⟩

/-- The two writes at which a NIBBLE can stop short (R124): the events before the write, and its byte. -/
inductive NibbleStop (cfg : Config) (n : Nibble) (rs bl : Bool) : List Event → Byte → Prop
  | strobeHigh : NibbleStop cfg n rs bl [] (expanderByte cfg n rs bl true)
  | strobeLow : NibbleStop cfg n rs bl [.w (expanderByte cfg n rs bl true), .d .tEH] (expanderByte cfg n rs bl false)

/-- The writes of a pulse are its strobe-high and its strobe-low write. -/
theorem nibbleStop_of_nibbleSlots {cfg : Config} {pb : Option ProtocolByte} {ix : Nat} {n : Nibble} {rs bl : Bool}
    {pre post : List Slot} {k : Slot} {v : Byte} (h : nibbleSlots cfg pb ix n rs bl = pre ++ k :: post)
    (hk : k.act = .write v) : NibbleStop cfg n rs bl (eventsOf pre) v := by
  match pre with
  | [] => cases h; cases hk; exact .strobeHigh
  | [_] => cases h; cases hk
  | [_, _] => cases h; cases hk; exact .strobeLow
  | [_, _, _] => cases h; cases hk
  | _ :: _ :: _ :: _ :: _ => simp [nibbleSlots] at h

/-- All that a NIBBLE can do, if it answers a next state: it succeeds, or it is refused or held at one of its writes. -/
theorem exec_nibble_cases {s t : State} (h : exec .nibble s = .next t) :
    t = s.afterOk (pulseTrace s.run.cfg s.run.operands.v s.run.operands.rs s.run.operands.bl) none ∨
    ∃ es v, NibbleStop s.run.cfg s.run.operands.v s.run.operands.rs s.run.operands.bl es v ∧
      (t = s.afterBusError es v ∨ t.busy = true ∧ t.trace = es) := by
  obtain ⟨-, j, hj, ⟨e, he, -⟩ | ⟨p, hp, -, ht⟩ | ⟨pre, k, v, post, hp, hk, -, hc⟩⟩ := exec_cases h <;> cases hj
  · cases he
  · cases hp; exact .inl ht
  · refine .inr ⟨_, v, nibbleStop_of_nibbleSlots (Except.ok.inj hp) hk, ?_⟩
    obtain ⟨-, rfl⟩ | ⟨-, rfl⟩ | ⟨-, rfl⟩ := hc
    · exact .inl rfl
    · exact .inr ⟨rfl, rfl⟩
    · exact .inr ⟨rfl, rfl⟩

/-! ## How many writes a NIBBLE makes (R125) -/

/-- A NIBBLE that stops short has attempted at most two writes, the one at which it stops included. -/
theorem NibbleStop.attemptsOf_le {cfg : Config} {n : Nibble} {rs bl : Bool} {es : List Event} {v : Byte}
    (h : NibbleStop cfg n rs bl es v) : attemptsOf es ≤ 2 ∧ attemptsOf (es ++ [.wErr v]) ≤ 2 := by
  cases h <;> simp [attemptsOf]

/-- Settles O8: the counts are those of the traces of O6 and O7; the bound holds in every case of `exec_nibble_cases`. -/
theorem nibbleWriteCounts : Obligations.NibbleWriteCounts := by
  unfold Obligations.NibbleWriteCounts
  intro s t h
  have hs : s.busy = false := (exec_cases h).1
  refine ⟨fun ha => ?ok, fun as hbus => ?high, fun as hbus => ?low, ?bound⟩
  case ok => cases h.symm.trans (nibbleCompletes s hs ha); exact ⟨rfl, rfl⟩
  case high => cases h.symm.trans ((nibbleFailures s as hs).1 hbus); exact ⟨rfl, rfl⟩
  case low => cases h.symm.trans ((nibbleFailures s as hs).2 hbus); exact ⟨rfl, rfl⟩
  case bound =>
    obtain rfl | ⟨es, v, hstop, rfl | ⟨-, rfl⟩⟩ := exec_nibble_cases h
    · exact Nat.le_refl 2
    · exact hstop.attemptsOf_le.2
    · exact hstop.attemptsOf_le.1

/-! ## What the controller latches of a NIBBLE, and what stays on the pins (R127 to R129) -/

/-- A whole pulse is seen as its nibble and its flags. -/
theorem decodedView_pulseTrace (cfg : Config) (n : Nibble) (rs bl : Bool) :
    decodedView cfg.placement (pulseTrace cfg n rs bl) = [(n, rs, bl)] := by
  rw [decodedView, ← List.append_nil (pulseTrace ..), viewFrom_pulseTrace_append, viewFrom_nil]

/-- Nothing is seen of a NIBBLE that stops short: it lacks the successful strobe-low write. -/
theorem NibbleStop.decodedView_eq_nil {cfg : Config} {n : Nibble} {rs bl : Bool} {es : List Event} {v : Byte}
    (h : NibbleStop cfg n rs bl es v) :
    decodedView cfg.placement es = [] ∧ decodedView cfg.placement (es ++ [.wErr v]) = [] := by
  cases h <;> simp [decodedView]

/-- The pins of an expander byte show the nibble, through PLACE, and the flags (30_encoding.md R81). -/
theorem pins_expanderByte (cfg : Config) (n : Nibble) (rs bl e : Bool) :
    place cfg.placement (pinData (expanderByte cfg n rs bl e)) = n ∧ pinStrobe (expanderByte cfg n rs bl e) = e ∧
    pinZero (expanderByte cfg n rs bl e) = false ∧ pinRs (expanderByte cfg n rs bl e) = rs ∧
    pinBl (expanderByte cfg n rs bl e) = bl := by
  simp [expanderByte]

/-- Settles O9: a NIBBLE that succeeds leaves a whole pulse, whose last write stays in XREG; of one that stops short nothing is
seen (`NibbleStop.decodedView_eq_nil`). -/
theorem nibbleDecodedView : Obligations.NibbleDecodedView := by
  unfold Obligations.NibbleDecodedView
  intro s t h
  obtain rfl | ⟨es, v, hstop, rfl | ⟨hbusy, rfl⟩⟩ := exec_nibble_cases h
  · refine ⟨fun _ _ => ⟨decodedView_pulseTrace .., rfl, pins_expanderByte ..⟩, ?_⟩
    rintro (⟨hst, -⟩ | hb)
    · cases hst
    · cases hb
  · exact ⟨fun _ hst => (nomatch hst), fun _ => hstop.decodedView_eq_nil.2⟩
  · exact ⟨fun hb => by simp [hbusy] at hb, fun _ => hstop.decodedView_eq_nil.1⟩

/-! ## Whole pulses and post-write delays (R123, 70_reset_and_hazards.md R270 to R274) -/

/-- What follows a paced trace is looked at alone. -/
theorem pacedTrace_append {a : List Event} (ha : pacedTrace a = true) (b : List Event) :
    pacedTrace (a ++ b) = pacedTrace b := by
  fun_induction pacedTrace a with
  | case1 => rfl
  | case2 t es ih =>
    rw [Bool.and_eq_true] at ha
    rw [List.cons_append, pacedTrace, ha.1, ih ha.2, Bool.true_and]
  | case3 x t y u es ih =>
    rw [Bool.and_eq_true] at ha
    simp only [List.cons_append, pacedTrace, ha.1, ih ha.2, Bool.true_and]
  | case4 => cases ha

theorem pacedTrace_pulseTrace (cfg : Config) (n : Nibble) (rs bl : Bool) : pacedTrace (pulseTrace cfg n rs bl) = true := by
  have hstrobe : (expanderByte cfg n rs bl true).getLsbD 1 = true := pinStrobe_assembleX ..
  have hlow : expanderByte cfg n rs bl false = expanderByte cfg n rs bl true &&& 0xFD := (assembleX_clear_strobe ..).symm
  simp only [pulseTrace, pacedTrace, hstrobe, ← hlow, beq_self_eq_true, Bool.and_self]

theorem pacedTrace_byteTrace (cfg : Config) (b : Byte) (rs bl : Bool) : pacedTrace (byteTrace cfg b rs bl) = true :=
  (pacedTrace_append (pacedTrace_pulseTrace ..) _).trans (pacedTrace_pulseTrace ..)

/-- A SEND is paced if its delay is a post-write delay, not a settle wait. -/
theorem pacedTrace_sendTrace (cfg : Config) (b : Byte) (rs : Bool) {t : WaitClass} (ht : pacedTrace [.d t] = true) :
    pacedTrace (sendTrace cfg b rs t) = true :=
  (pacedTrace_append (pacedTrace_byteTrace ..) _).trans ht

theorem pacedTrace_pulseDelayTrace (cfg : Config) (n : Nibble) {t : WaitClass} (ht : pacedTrace [.d t] = true) :
    pacedTrace (pulseDelayTrace cfg n t) = true :=
  (pacedTrace_append (pacedTrace_pulseTrace ..) _).trans ht

theorem pacedTrace_stringTrace (cfg : Config) (x : Bytes) : pacedTrace (stringTrace cfg x) = true := by
  induction x with
  | nil => rfl
  | cons c cs ih => exact (pacedTrace_append (pacedTrace_sendTrace cfg c true rfl) _).trans ih

theorem pacedTrace_initTrace (cfg : Config) : pacedTrace (initTrace cfg) = true := by
  have h8 := pacedTrace_pulseDelayTrace cfg cfg.codes.nibFs8 (t := .tInit) rfl
  have h4 := pacedTrace_pulseDelayTrace cfg cfg.codes.nibFs4 (t := .tShort) rfl
  have hshort (b : Byte) := pacedTrace_sendTrace cfg b false (t := .tShort) rfl
  have hlong (b : Byte) := pacedTrace_sendTrace cfg b false (t := .tLong) rfl
  simp only [initTrace, List.append_assoc, pacedTrace_append, h8, h4, hshort, hlong]

theorem pacedTrace_gotoxyBody {cfg : Config} {col row : Byte} {p : List Slot} (h : gotoxyBody cfg col row = .ok p) :
    pacedTrace (eventsOf p) = true := by
  obtain ⟨b, rfl⟩ := gotoxyBody_ok h
  exact pacedTrace_sendTrace cfg b false rfl

/-- A token runs a CLEAR, a GOTOXY, or the PUTSTR of a message (43_dispatcher.md R197 to R199). -/
theorem pacedTrace_tokenJob {cfg : Config} {sel len : Nat} {p : List Slot} (h : (tokenJob cfg sel len).body = .ok p) :
    pacedTrace (eventsOf p) = true := by
  simp only [tokenJob, tokenBody] at h
  split at h
  · cases h; exact pacedTrace_sendTrace cfg _ false rfl
  · exact pacedTrace_gotoxyBody h
  · cases h; rw [eventsOf_putstr]; exact pacedTrace_stringTrace ..

theorem pacedTrace_requestJob {cfg : Config} {rb : Bytes} {p : List Slot} (h : (requestJob cfg rb).body = .ok p) :
    pacedTrace (eventsOf p) = true := by
  rcases requestJob_cases cfg rb with ⟨hj, -⟩ | ⟨_, _, n, -, -, -, hj⟩ | ⟨text, _, -, -, hj⟩ <;> rw [hj] at h
  · cases h
  · exact pacedTrace_tokenJob h
  · cases h; rw [eventsOf_putstr]; exact pacedTrace_stringTrace ..

/-- Every operation of the port and every request row expands to whole pulses and post-write delays. -/
theorem pacedTrace_jobOf {i : Instr} {r : Run} {j : Job} {p : List Slot} (hf : i.format = .P ∨ i.format = .Q)
    (hj : jobOf i r = some j) (hb : j.body = .ok p) : pacedTrace (eventsOf p) = true := by
  cases i <;> simp only [Instr.format, reduceCtorEq, or_self] at hf <;>
    simp only [jobOf, Option.some.injEq, reduceCtorEq] at hj <;> subst hj
  case gotoxy => exact pacedTrace_gotoxyBody hb
  case request => exact pacedTrace_requestJob hb
  case reqClear | reqGotoRow1 | reqGotoRow2 | reqGotoRow3 | reqGotoRow4 | reqInvalid5 | reqInvalid6 | reqInvalid7 |
      reqInvalid8 | reqInvalid9 => exact pacedTrace_tokenJob hb
  case reqMalformed | reqEmpty => cases hb
  all_goals cases hb
  case nibble => exact pacedTrace_pulseTrace ..
  case byte => exact pacedTrace_byteTrace ..
  case init => rw [eventsOf_init]; exact pacedTrace_initTrace _
  case putstr | reqText => rw [eventsOf_putstr]; exact pacedTrace_stringTrace ..
  case clear | home | entrymode | dispctl | putchar => exact pacedTrace_sendTrace _ _ _ rfl

/-- Settles O50: the trace of an operation that ended with `Ok` is that of its expansion (`exec_trace_of_ok`). -/
theorem tracesArePaced : Obligations.TracesArePaced := by
  unfold Obligations.TracesArePaced
  intro i s t hf h hb ho
  obtain ⟨j, p, hj, hp, ht⟩ := exec_trace_of_ok h hb ho
  rw [ht]
  exact pacedTrace_jobOf hf hj hp

end Sys2Proof.Machine
end

section
/-! SUPPORT. The failing traces of a BYTE (41_byte_protocol.md R143): its two pulses run in sequence, the second on the pins
that the first one left. -/

namespace Sys2Proof.Machine

/-- Nothing is seen of a pulse one of whose writes is refused, whatever was written before it. -/
theorem NibbleStop.viewFrom_eq_nil {cfg : Config} {n : Nibble} {rs bl : Bool} {es : List Event} {v : Byte}
    (h : NibbleStop cfg n rs bl es v) (prev : Option Byte) :
    viewFrom cfg.placement prev (es ++ [.wErr v]) = [] := by
  cases h with
  | strobeHigh => rfl
  | strobeLow => rw [List.cons_append, viewFrom_strobe_high]; rfl

/-- Of a whole pulse and one that stops short after it, the first alone is seen. -/
theorem NibbleStop.decodedView_pulseTrace_append {cfg : Config} {n : Nibble} {rs bl : Bool} {es : List Event} {v : Byte}
    (h : NibbleStop cfg n rs bl es v) (m : Nibble) :
    decodedView cfg.placement (pulseTrace cfg m rs bl ++ es ++ [.wErr v]) = [(m, rs, bl)] := by
  rw [decodedView, List.append_assoc, viewFrom_pulseTrace_append, h.viewFrom_eq_nil]

/-- Settles O11: the refused write (`exec_busError`) is one of the two of the high nibble's pulse, of which nothing is seen, or
of the low nibble's, before which the high nibble is seen. -/
theorem byteFailures : Obligations.ByteFailures := by
  unfold Obligations.ByteFailures
  intro s as hs o h1 h0 l1 l0 fails
  refine ⟨fun hbus => ⟨?_, NibbleStop.strobeHigh.decodedView_eq_nil.2⟩,
    fun hbus => ⟨?_, NibbleStop.strobeLow.decodedView_eq_nil.2⟩,
    fun hbus => ⟨?_, NibbleStop.strobeHigh.decodedView_pulseTrace_append _⟩,
    fun hbus => ⟨?_, NibbleStop.strobeLow.decodedView_pulseTrace_append _⟩⟩
  · exact exec_busError (i := .byte) (pre := []) hs rfl rfl rfl hbus
  · exact exec_busError (i := .byte) (pre := [_, _]) hs rfl rfl rfl hbus
  · exact exec_busError (i := .byte) (pre := [_, _, _, _]) hs rfl rfl rfl hbus
  · exact exec_busError (i := .byte) (pre := [_, _, _, _, _, _]) hs rfl rfl rfl hbus

end Sys2Proof.Machine
end

section
/-! SUPPORT. The statements of 42_command_layer.md: what each operation of the Command Layer sends (R150 to R164), what the
controller latches of INIT and PUTSTR (R128, R154), where a PUTSTR stops (R165), and the addresses of the cells (R158). -/

namespace Sys2Proof.Machine

/-! ## Operations that send something -/

/-- An operation whose expansion carries no error ends with `Ok` or `BusError`. -/
theorem okOrBusError_of_body {i : Instr} {j : Job} {p : List Slot} {s : State} (hj : jobOf i s.run = some j)
    (hp : j.body = .ok p) : OkOrBusError i s := by
  intro t h hb
  obtain ⟨-, j', hj', ⟨e, he, -⟩ | ⟨_, -, -, rfl⟩ | ⟨_, _, _, _, -, -, -, ⟨-, rfl⟩ | ⟨-, rfl⟩ | ⟨-, rfl⟩⟩⟩ := exec_cases h
  · cases hj.symm.trans hj'
    cases hp.symm.trans he
  · exact .inl rfl
  · exact .inr rfl
  all_goals cases hb

/-- An operation that expands to the steps `p`, with what these write and leave. -/
theorem exec_plain {i : Instr} {p : List Slot} {n : Nat} {es : List Event} {s : State}
    (hj : jobOf i s.run = some (.plain p)) (hn : writeCount p = n) (he : eventsOf p = es) :
    OkOrBusError i s ∧ (s.busy = false → Answered n s → exec i s = .next (s.afterOk es none)) := by
  subst hn he
  exact ⟨okOrBusError_of_body hj rfl, fun hs ha => exec_ok hj rfl hs ha⟩

/-- An operation that expands to one SEND (R150). -/
theorem exec_send {i : Instr} {b : Byte} {rs : Bool} {d : WaitClass} {s : State}
    (hj : jobOf i s.run = some (.plain (sendSlots s.run.cfg 0 b rs d))) :
    OkOrBusError i s ∧
      (s.busy = false → Answered 4 s → exec i s = .next (s.afterOk (sendTrace s.run.cfg b rs d) none)) :=
  exec_plain hj rfl rfl

/-- Settles O14: CLEAR expands to one SEND. -/
theorem clearCompletes : Obligations.ClearCompletes := by
  unfold Obligations.ClearCompletes
  exact ⟨rfl, rfl, fun _ => exec_send rfl⟩

/-- Settles O15: HOME and ENTRYMODE each expand to one SEND. -/
theorem homeAndEntrymodeComplete : Obligations.HomeAndEntrymodeComplete := by
  unfold Obligations.HomeAndEntrymodeComplete
  exact fun s hs ha => ⟨(exec_send (i := .home) rfl).2 hs ha, (exec_send (i := .entrymode) rfl).2 hs ha⟩

/-- Settles O16: DISPCTL expands to one SEND. -/
theorem dispctlCompletes : Obligations.DispctlCompletes := by
  unfold Obligations.DispctlCompletes
  exact ⟨rfl, rfl, fun _ => exec_send rfl⟩

/-- Settles O20: PUTCHAR expands to one SEND of the character as it is. -/
theorem putcharCompletes : Obligations.PutcharCompletes := by
  unfold Obligations.PutcharCompletes
  exact ⟨rfl, fun _ => exec_send rfl⟩

/-! ## GOTOXY (R157 to R160) -/

/-- Below row 4 GOTOXY expands to one SEND of the row's entry plus the column. -/
theorem jobOf_gotoxy_of_row {r : Run} (row : Fin Config.rows) (h : r.operands.row.toNat = row) :
    jobOf .gotoxy r =
      some (.plain (sendSlots r.cfg 0 (cmdSetddram (ddramAddress r.cfg row r.operands.col)) false .tShort)) := by
  simp [jobOf, jobGotoxy, gotoxyBody, Job.plain, h]

/-- At row 4 and above its check fails, whatever the column. -/
theorem gotoxyBody_of_rows_le (cfg : Config) (col : Byte) {row : Byte} (h : 4 ≤ row.toNat) :
    gotoxyBody cfg col row = .error .addressOutOfRange := dif_neg (Nat.not_lt.mpr h)

/-- Settles O17: at each row of the table one SEND, above it a check that fails. -/
theorem gotoxyCompletes : Obligations.GotoxyCompletes := by
  unfold Obligations.GotoxyCompletes
  refine ⟨rfl, fun s hs => ?_⟩
  intro o lines cmd
  have hsend (row : Fin Config.rows) (h : o.row.toNat = row) := exec_send (jobOf_gotoxy_of_row (r := s.run) row h)
  refine ⟨fun h => ?row0, fun h => ?row1, fun h => ?row2, fun h => ?row3, fun h => ?above, fun h => ?ends⟩
  case row0 => exact (hsend 0 (by rw [h]; rfl)).2 hs
  case row1 => exact (hsend 1 (by rw [h]; rfl)).2 hs
  case row2 => exact (hsend 2 (by rw [h]; rfl)).2 hs
  case row3 => exact (hsend 3 (by rw [h]; rfl)).2 hs
  case above => exact exec_check (i := .gotoxy) rfl (gotoxyBody_of_rows_le _ _ h) hs
  case ends => exact (hsend ⟨o.row.toNat, h⟩ rfl).1

/-- The command of a cell is the row's base with bit 7 set, plus the column: no sum wraps or reaches bit 7. -/
theorem toNat_cmdSetddram_standard (r : Fin 4) (c : Fin 20) :
    (cmdSetddram (ddramAddress Config.standard r (BitVec.ofNat 8 c.val))).toNat =
      (if r = 0 then 0x80 else if r = 1 then 0xC0 else if r = 2 then 0x94 else 0xD4) + c.val := by
  revert r c; decide

/-- Settles O19: the four ranges of 20 commands do not meet. -/
theorem cellAddressesDistinct : Obligations.CellAddressesDistinct := by
  unfold Obligations.CellAddressesDistinct
  intro r r' c c' cmd
  refine ⟨fun h => ?_, toNat_cmdSetddram_standard r c⟩
  have hn := congrArg BitVec.toNat h
  simp only [cmd, toNat_cmdSetddram_standard] at hn
  split_ifs at hn <;> omega

/-! ## INIT (R152 to R154) -/

/-- Settles O12: INIT expands to its nine steps. -/
theorem initCompletes : Obligations.InitCompletes := by
  unfold Obligations.InitCompletes
  intro s
  obtain ⟨hend, hok⟩ := exec_plain (i := .init) (s := s) rfl (writeCount_init s.run.cfg) (eventsOf_init s.run.cfg)
  refine ⟨hend, fun hs ha => ⟨hok hs ha, rfl, ?_⟩⟩
  rw [← eventsOf_init]
  exact writeCount_init s.run.cfg

/-- A pulse with its delay is seen once, whatever was written before it. -/
theorem viewFrom_pulseDelayTrace_append (cfg : Config) (prev : Option Byte) (v : Nibble) (d : WaitClass)
    (es : List Event) :
    viewFrom cfg.placement prev (pulseDelayTrace cfg v d ++ es) =
      (v, false, cfg.backlight) ::
        viewFrom cfg.placement (some (expanderByte cfg v false cfg.backlight false)) es := by
  rw [pulseDelayTrace, List.append_assoc, viewFrom_pulseTrace_append]
  rfl

/-- A SEND is seen as the two nibbles of its byte, the high one first, whatever was written before it. -/
theorem viewFrom_sendTrace_append (cfg : Config) (prev : Option Byte) (b : Byte) (rs : Bool) (d : WaitClass)
    (es : List Event) :
    viewFrom cfg.placement prev (sendTrace cfg b rs d ++ es) =
      (b.extractLsb' 4 4, rs, cfg.backlight) :: (b.extractLsb' 0 4, rs, cfg.backlight) ::
        viewFrom cfg.placement (some (expanderByte cfg (b.extractLsb' 0 4) rs cfg.backlight false)) es := by
  rw [sendTrace, byteTrace, List.append_assoc, List.append_assoc, viewFrom_pulseTrace_append,
    viewFrom_pulseTrace_append]
  rfl

/-- What the controller latches of an INIT: the four nibbles, then the five command bytes. -/
theorem decodedView_initTrace (cfg : Config) :
    decodedView cfg.placement (initTrace cfg) =
      ([cfg.codes.nibFs8, cfg.codes.nibFs8, cfg.codes.nibFs8, cfg.codes.nibFs4] ++
        [cmdFuncset cfg false true cfg.font, cmdDispctl cfg false false false, cfg.codes.clear, cmdEntry cfg true false,
          cmdDispctl cfg true true true].flatMap fun b => [b.extractLsb' 4 4, b.extractLsb' 0 4]).map
        fun n => (n, false, cfg.backlight) := by
  rw [decodedView, ← List.append_nil (initTrace cfg)]
  simp only [initTrace, List.append_assoc, viewFrom_pulseDelayTrace_append, viewFrom_sendTrace_append, viewFrom_nil]
  rfl

/-- Settles O13: the trace of an INIT that ended with `Ok` is that of its expansion; the standard codes give the nibbles. -/
theorem initDecodedView : Obligations.InitDecodedView := by
  unfold Obligations.InitDecodedView
  intro s t hc h hb ho
  obtain ⟨j, p, hj, hp, ht⟩ := exec_trace_of_ok h hb ho
  cases hj
  cases hp
  rw [ht, eventsOf_init, decodedView_initTrace]
  simp only [cmdFuncset, cmdDispctl, cmdEntry, hc]
  cases s.run.cfg.font <;> rfl

/-! ## PUTSTR (R164 to R166) -/

@[simp] theorem stringTrace_cons (cfg : Config) (c : Byte) (cs : Bytes) :
    stringTrace cfg (c :: cs) = sendTrace cfg c true .tShort ++ stringTrace cfg cs := rfl

/-- Nine events to a character. -/
theorem length_stringTrace (cfg : Config) (x : Bytes) : (stringTrace cfg x).length = 9 * x.length := by
  rw [← eventsOf_putstr cfg 0, eventsOf_length, putstrSlots_length]

/-- Four writes to a character. -/
theorem length_writesOf_stringTrace (cfg : Config) (x : Bytes) : (writesOf (stringTrace cfg x)).length = 4 * x.length := by
  rw [← eventsOf_putstr cfg 0, writesOf_eventsOf_length, writeCount_putstr]

/-- PUTSTR expands to the characters it is given. -/
theorem exec_putstr (s : State) :
    OkOrBusError .putstr s ∧ (s.busy = false → Answered (4 * s.run.operands.s.length) s →
      exec .putstr s = .next (s.afterOk (stringTrace s.run.cfg s.run.operands.s) none)) :=
  exec_plain rfl (writeCount_putstr _ 0 _) (eventsOf_putstr _ 0 _)

/-- Settles O21: PUTSTR expands to the characters in order. -/
theorem putstrCompletes : Obligations.PutstrCompletes := by
  unfold Obligations.PutstrCompletes
  refine ⟨rfl, fun s => ⟨(exec_putstr s).1, fun hs ha => ⟨(exec_putstr s).2 hs ha, ?_, ?_⟩⟩⟩
  · exact length_stringTrace s.run.cfg s.run.operands.s
  · exact length_writesOf_stringTrace s.run.cfg s.run.operands.s

/-- Every character of a string is seen, whatever was written before the string. -/
theorem viewFrom_stringTrace (cfg : Config) (prev : Option Byte) (x : Bytes) :
    viewFrom cfg.placement prev (stringTrace cfg x) =
      x.flatMap fun c => [(c.extractLsb' 4 4, true, cfg.backlight), (c.extractLsb' 0 4, true, cfg.backlight)] := by
  induction x generalizing prev with
  | nil => rfl
  | cons c cs ih => rw [stringTrace_cons, viewFrom_sendTrace_append, ih]; rfl

/-- Settles O23: the trace of a PUTSTR that ended with `Ok` is that of its expansion. -/
theorem decodedViewOfString : Obligations.DecodedViewOfString := by
  unfold Obligations.DecodedViewOfString
  intro s t h hb ho
  obtain ⟨j, p, hj, hp, ht⟩ := exec_trace_of_ok h hb ho
  cases hj
  cases hp
  rw [ht, eventsOf_putstr]
  exact viewFrom_stringTrace ..

/-! ### A failure on a character (R165) -/

theorem Act.event_eq_w {a : Act} {v : Byte} : a.event = .w v ↔ a = .write v := by
  cases a <;> simp

/-- A write among the events of some steps is one of the steps, with those before it and after it. -/
theorem exists_write_of_eventsOf {p : List Slot} {m : Nat} {v : Byte} (h : (eventsOf p)[m]? = some (.w v)) :
    ∃ k post, p = p.take m ++ k :: post ∧ k.act = .write v := by
  obtain ⟨k, hk, he⟩ : ∃ k, p[m]? = some k ∧ k.act.event = .w v := by simpa [eventsOf] using h
  obtain ⟨hlt, rfl⟩ := List.getElem?_eq_some_iff.mp hk
  exact ⟨p[m], p.drop (m + 1), by simp, Act.event_eq_w.mp he⟩

/-- The `n`-th write of a byte, from 0, stands at its step `2 * n`. -/
theorem writeCount_take_byteSlots (cfg : Config) (ix : Nat) (b : Byte) (rs bl : Bool) {n : Nat} (hn : n < 4) :
    writeCount ((byteSlots cfg ix b rs bl).take (2 * n)) = n := by
  interval_cases n <;> rfl

/-- The steps of a string up to the `n`-th write `v` of a character: the characters before it, and of it the steps before that
write. -/
theorem putstrSlots_at_write (cfg : Config) (before after : Bytes) (c : Byte) {n : Nat} {v : Byte}
    (h : (byteTrace cfg c true cfg.backlight)[2 * n]? = some (.w v)) :
    ∃ pre k post, putstrSlots cfg 0 (before ++ c :: after) = pre ++ k :: post ∧ k.act = .write v ∧
      writeCount pre = 4 * before.length + n ∧
      eventsOf pre = stringTrace cfg before ++ (byteTrace cfg c true cfg.backlight).take (2 * n) := by
  have hlt : 2 * n < 8 := (List.getElem?_eq_some_iff.mp h).1
  rw [← eventsOf_byte cfg before.length] at h ⊢
  obtain ⟨k, post, hp, hk⟩ := exists_write_of_eventsOf h
  refine ⟨putstrSlots cfg 0 before ++ (byteSlots cfg before.length c true cfg.backlight).take (2 * n), k,
    post ++ ⟨.wait .tShort, none, before.length⟩ :: putstrSlots cfg (before.length + 1) after, ?_, hk, ?_, ?_⟩
  · rw [putstrSlots_append, putstrSlots, putcharSlots, sendSlots, Nat.zero_add]
    conv_lhs => rw [hp]
    simp
  · rw [writeCount_append, writeCount_putstr, writeCount_take_byteSlots _ _ _ _ _ (by omega)]
  · rw [eventsOf_append, eventsOf_putstr, eventsOf, eventsOf, List.map_take]

/-- PUTSTR of the string `x`, presented on an idle block. -/
theorem exec_putstr_presentString (x : Bytes) {s : State} (hs : s.busy = false) (ha : Answered (4 * x.length) s) :
    exec .putstr (s.presentString x) = .next (s.afterOk (stringTrace s.run.cfg x) none) :=
  (exec_putstr (s.presentString x)).2 hs ha

/-- Settles O22: the refused write ends the operation (`exec_busError`) at its step of the character
(`putstrSlots_at_write`); the state it leaves is idle, and PUTSTR starts afresh from it. -/
theorem putstrFailure : Obligations.PutstrFailure := by
  unfold Obligations.PutstrFailure
  intro s before after c n v as hs hstr hbus hv t
  obtain ⟨pre, k, post, hp, hk, hcount, hevents⟩ := putstrSlots_at_write s.run.cfg before after c hv
  refine ⟨?_, fun ha => exec_putstr_presentString _ rfl ha⟩
  rw [← hstr] at hp
  rw [← hcount] at hbus
  have h := exec_busError (i := .putstr) hs rfl (congrArg Except.ok hp) hk hbus
  rwa [hevents] at h

end Sys2Proof.Machine
end

section
/-! SUPPORT. The statements of 43_dispatcher.md: what a literal text and each control token run (R194, R197 to R199), the count a
request reports (R200), and that REQUEST does what the form its buffer decodes to does (R190, R195; 30_encoding.md R94 to
R98). -/

namespace Sys2Proof.Machine

/-! ## Texts and tokens -/

/-- A request that is a literal text sends the text (R194). -/
theorem exec_textJob {i : Instr} {text : Bytes} {len : Nat} {s : State}
    (hj : jobOf i s.run = some (textJob s.run.cfg text len)) :
    OkOrBusError i s ∧ (s.busy = false → Answered (4 * text.length) s →
      exec i s = .next (s.afterOk (stringTrace s.run.cfg text) (some len))) := by
  rw [← writeCount_putstr s.run.cfg 0, ← eventsOf_putstr s.run.cfg 0]
  exact ⟨okOrBusError_of_body hj rfl, fun hs ha => exec_ok hj rfl hs ha⟩

/-- A request with a token that runs the steps `p`, making `m` writes and leaving the events `es`. -/
theorem exec_tokenJob {i : Instr} {n len m : Nat} {p : List Slot} {es : List Event} {s : State}
    (hj : jobOf i s.run = some (tokenJob s.run.cfg n len)) (hp : tokenBody s.run.cfg (tokenOf n) = .ok p)
    (hm : writeCount p = m) (he : eventsOf p = es) :
    OkOrBusError i s ∧ (s.busy = false → Answered m s → exec i s = .next (s.afterOk es (some len))) := by
  subst hm he
  exact ⟨okOrBusError_of_body hj hp, fun hs ha => exec_ok hj hp hs ha⟩

/-- Selector 0 runs CLEAR (R197). -/
theorem exec_tokenJob_clear {i : Instr} {len : Nat} {s : State} (hj : jobOf i s.run = some (tokenJob s.run.cfg 0 len)) :
    OkOrBusError i s ∧ (s.busy = false → Answered 4 s →
      exec i s = .next (s.afterOk (sendTrace s.run.cfg s.run.cfg.codes.clear false .tLong) (some len))) :=
  exec_tokenJob hj rfl rfl rfl

/-- In column 0 the address is the row's base. -/
theorem ddramAddress_zero (cfg : Config) (row : Fin Config.rows) : ddramAddress cfg row 0 = lineBase cfg.lineBase row :=
  BitVec.add_zero _

/-- Selectors 1 to 4 run GOTOXY(0, selector - 1), whose row check they pass (R198). -/
theorem tokenBody_gotoRow (cfg : Config) (row : Fin Config.rows) :
    tokenBody cfg (tokenOf (row + 1)) =
      .ok (sendSlots cfg 0 (cmdSetddram (lineBase cfg.lineBase row)) false .tShort) := by
  have hlt : row.val < 4 := row.isLt
  have hrow : (BitVec.ofNat 8 row.val).toNat = row := by rw [BitVec.toNat_ofNat, Nat.mod_eq_of_lt (by omega)]
  rw [tokenOf_gotoRow (Nat.le_add_left ..) hlt, ← ddramAddress_zero]
  simp [tokenBody, gotoxyBody, hrow]

theorem exec_tokenJob_gotoRow (row : Fin Config.rows) {i : Instr} {len : Nat} {s : State}
    (hj : jobOf i s.run = some (tokenJob s.run.cfg (row + 1) len)) :
    OkOrBusError i s ∧ (s.busy = false → Answered 4 s →
      exec i s = .next
        (s.afterOk (sendTrace s.run.cfg (0x80 ||| lineBase s.run.cfg.lineBase row) false .tShort) (some len))) :=
  exec_tokenJob hj (tokenBody_gotoRow _ row) rfl rfl

/-- Selectors from 5 on display the message (R199). -/
theorem tokenBody_invalid (cfg : Config) {n : Nat} (hn : 5 ≤ n) :
    tokenBody cfg (tokenOf n) = .ok (putstrSlots cfg 0 Config.invalidMsg) := by
  have h0 : n ≠ 0 := by omega
  have h4 : ¬ n ≤ 4 := by omega
  simp [tokenOf, tokenBody, h0, h4]

theorem exec_tokenJob_invalid {i : Instr} {n len : Nat} {s : State} (hn : 5 ≤ n)
    (hj : jobOf i s.run = some (tokenJob s.run.cfg n len)) :
    OkOrBusError i s ∧ (s.busy = false → Answered 60 s →
      exec i s = .next (s.afterOk (stringTrace s.run.cfg Config.invalidMsg) (some len))) :=
  exec_tokenJob hj (tokenBody_invalid _ hn) (writeCount_putstr ..) (eventsOf_putstr ..)

/-! ## The request rows -/

/-- Settles O31: each row is a token, whatever its terminator. -/
theorem tokenFormsComplete : Obligations.TokenFormsComplete := by
  unfold Obligations.TokenFormsComplete
  intro s t hs ha cmd lines
  exact ⟨(exec_tokenJob_clear rfl).2 hs ha, (exec_tokenJob_gotoRow 0 rfl).2 hs ha, (exec_tokenJob_gotoRow 1 rfl).2 hs ha,
    (exec_tokenJob_gotoRow 2 rfl).2 hs ha, (exec_tokenJob_gotoRow 3 rfl).2 hs ha⟩

/-- Settles O32: each row is a token with a selector from 5 on. -/
theorem invalidFormsComplete : Obligations.InvalidFormsComplete := by
  unfold Obligations.InvalidFormsComplete
  intro s t hs ha i hi
  have hinvalid {n : Nat} (hn : 5 ≤ n) (hj : jobOf i s.run = some (tokenJob s.run.cfg n 5)) :=
    (exec_tokenJob_invalid hn hj).2 hs ha
  simp only [List.mem_cons, List.not_mem_nil, or_false] at hi
  obtain rfl | rfl | rfl | rfl | rfl := hi
  · exact hinvalid (n := 5) (by decide) rfl
  · exact hinvalid (n := 6) (by decide) rfl
  · exact hinvalid (n := 7) (by decide) rfl
  · exact hinvalid (n := 8) (by decide) rfl
  · exact hinvalid (n := 9) (by decide) rfl

/-- The row REQ.TEXT runs the request of its text. -/
theorem jobOf_reqText (text : Bytes) (t : Byte) (r : Run) :
    jobOf (.reqText text t) r = some (textJob r.cfg text (text.length + 1)) := by
  have hlen : (encode (.reqText text t)).length = text.length + 1 := (Laws.EncodedLength.reqText text t).2 rfl
  rw [← hlen]; rfl

/-- Settles O33: the first row sends its text, the other two are rejected by their check. -/
theorem openFormsComplete : Obligations.OpenFormsComplete := by
  unfold Obligations.OpenFormsComplete
  intro s text tail t hs
  exact ⟨(exec_textJob (jobOf_reqText text t s.run)).2 hs, exec_check (i := .reqMalformed tail t) rfl rfl hs,
    exec_check (i := .reqEmpty) rfl rfl hs⟩

/-! ## REQUEST -/

theorem jobOf_request_of_rb {r : Run} {rb : Bytes} (h : r.operands.rb = rb) :
    jobOf .request r = some (requestJob r.cfg rb) := by rw [← h]; rfl

/-- A text that does not begin with the marker is literal (R193, R194). -/
theorem requestJob_text (cfg : Config) {text : Bytes} (t : Byte) (h : beginsWithMarker text = false) :
    requestJob cfg (text ++ [t]) = textJob cfg text (text.length + 1) := by
  simp [requestJob, h]

/-- REQUEST with the marker, one digit and a terminator runs the token of that digit (R195). -/
theorem jobOf_request_digit {r : Run} {k t : Byte} (hrb : r.operands.rb = [0x5F, 0x5F, 0x5F, k, t])
    (h0 : 0x30 ≤ k.toNat) (h9 : k.toNat ≤ 0x39) : jobOf .request r = some (tokenJob r.cfg (k.toNat - 0x30) 5) := by
  rw [jobOf_request_of_rb hrb, requestJob_digit r.cfg t h0 h9]

/-- Settles O24: the request expands to the PUTSTR of its text. -/
theorem requestText : Obligations.RequestText := by
  unfold Obligations.RequestText
  intro s text t hrb hm
  have hmark : beginsWithMarker text = false := Bool.eq_false_iff.mpr (mt beginsWithMarker_iff.mp hm)
  exact exec_textJob (by rw [jobOf_request_of_rb hrb, requestJob_text s.run.cfg t hmark])

/-- Settles O25: the digit 0 is the token that runs CLEAR. -/
theorem requestClear : Obligations.RequestClear := by
  unfold Obligations.RequestClear
  intro s t hrb
  exact exec_tokenJob_clear (jobOf_request_digit (k := 0x30) hrb (by decide) (by decide))

/-- Settles O26: the digits 1 to 4 are the tokens that run GOTOXY on rows 0 to 3. -/
theorem requestGotoRow : Obligations.RequestGotoRow := by
  unfold Obligations.RequestGotoRow
  intro s k t hrb lines goes
  refine ⟨?row0, ?row1, ?row2, ?row3⟩ <;> rintro rfl
  case row0 => exact exec_tokenJob_gotoRow 0 (jobOf_request_digit hrb (by decide) (by decide))
  case row1 => exact exec_tokenJob_gotoRow 1 (jobOf_request_digit hrb (by decide) (by decide))
  case row2 => exact exec_tokenJob_gotoRow 2 (jobOf_request_digit hrb (by decide) (by decide))
  case row3 => exact exec_tokenJob_gotoRow 3 (jobOf_request_digit hrb (by decide) (by decide))

/-- A refused write in its trace tells that an operation has ended with `BusError` (60_exceptions.md R222). -/
theorem busError_of_wErr_mem {i : Instr} {s t : State} {v : Byte} (h : exec i s = .next t) (hv : .wErr v ∈ t.trace) :
    t.busy = false ∧ t.status = .busError := by
  obtain ⟨-, j, -, ⟨e, -, rfl⟩ | ⟨p, -, -, rfl⟩ | ⟨pre, k, u, post, -, -, -, ⟨-, rfl⟩ | ⟨-, rfl⟩ | ⟨-, rfl⟩⟩⟩ := exec_cases h
  case inl => cases hv
  case inr.inr.inl => exact ⟨rfl, rfl⟩
  all_goals exact absurd hv (wErr_not_mem_eventsOf _ v)

/-- Settles O27: the digits 5 to 9 are the tokens that display the message; a refused write ends them as it ends any
operation. -/
theorem requestInvalid : Obligations.RequestInvalid := by
  unfold Obligations.RequestInvalid
  intro s k t hrb h5 h9
  obtain ⟨hends, hdone⟩ := exec_tokenJob_invalid (by omega) (jobOf_request_digit hrb (by omega) h9)
  exact ⟨hends, fun _ _ => busError_of_wErr_mem, hdone⟩

/-! ## The count (R200) -/

/-- An operation that is no request reports no count (10_state.md R28). -/
theorem count_eq_none {i : Instr} {r : Run} {j : Job} (hj : jobOf i r = some j) (hi : i ≠ .request)
    (hf : i.format ≠ .Q) : j.count = none := by
  cases i <;> simp only [jobOf, Option.some.injEq, reduceCtorEq] at hj <;> subst hj
  case request => exact absurd rfl hi
  case reqClear | reqGotoRow1 | reqGotoRow2 | reqGotoRow3 | reqGotoRow4 | reqInvalid5 | reqInvalid6 | reqInvalid7 |
      reqInvalid8 | reqInvalid9 | reqText | reqMalformed | reqEmpty => exact absurd rfl hf
  all_goals rfl

/-- A request row that is not rejected reports the length of its encoding. -/
theorem count_of_format_Q {i : Instr} {r : Run} {j : Job} {p : List Slot} (hj : jobOf i r = some j)
    (hf : i.format = .Q) (hp : j.body = .ok p) : j.count = some (encode i).length := by
  cases i <;> simp only [Instr.format, reduceCtorEq] at hf <;> cases hj
  case reqMalformed | reqEmpty => cases hp
  all_goals rfl

/-- A request that is not rejected reports the length of its buffer. -/
theorem count_requestJob {cfg : Config} {rb : Bytes} {p : List Slot} (hp : (requestJob cfg rb).body = .ok p) :
    (requestJob cfg rb).count = some rb.length := by
  rcases requestJob_cases cfg rb with ⟨hj, -⟩ | ⟨k, t, n, rfl, -, -, hj⟩ | ⟨text, t, rfl, -, hj⟩
  · rw [hj] at hp; cases hp
  · rw [hj]; rfl
  · rw [hj, List.length_append]; rfl

/-- Settles O29: by the outcomes of `exec_cases`; only a success writes CONSUMED, with the count of its expansion. -/
theorem requestCount : Obligations.RequestCount := by
  unfold Obligations.RequestCount
  intro i s t h hb
  obtain ⟨-, j, hj, ⟨e, he, rfl⟩ | ⟨p, hp, -, rfl⟩ | ⟨_, _, _, _, -, -, -, ⟨-, rfl⟩ | ⟨-, rfl⟩ | ⟨-, rfl⟩⟩⟩ := exec_cases h
  case inl =>
    have hne : e ≠ .ok := (job_error_ne_busError hj he).2
    exact ⟨fun _ ho => absurd ho hne, fun _ => rfl, fun _ _ => rfl, fun _ ho => absurd ho hne⟩
  case inr.inl =>
    have hcount {c : Option Nat} (hc : j.count = c) :
        (s.afterOk (eventsOf p) j.count).consumed = consumedAfter c s.consumed := by rw [hc]; rfl
    refine ⟨?_, fun hne => absurd rfl hne, fun hi hf => hcount (count_eq_none hj hi hf),
      fun hf _ => hcount (count_of_format_Q hj hf hp)⟩
    rintro rfl -
    cases hj
    exact hcount (count_requestJob hp)
  case inr.inr.inl => exact ⟨fun _ ho => (nomatch ho), fun _ => rfl, fun _ _ => rfl, fun _ ho => (nomatch ho)⟩
  all_goals cases hb

/-! ## REQUEST and the form its buffer decodes to -/

/-- The form a buffer decodes to expands to what REQUEST expands to with that buffer. -/
theorem jobOf_decodeRequest (rb : Bytes) (r : Run) : jobOf (decodeRequest rb) r = some (requestJob r.cfg rb) := by
  rcases requestJob_cases r.cfg rb with ⟨hj, rfl | ⟨tl, t, rfl, hk⟩⟩ | ⟨k, t, n, rfl, hk, hn, hj⟩ | ⟨text, t, rfl, hm, hj⟩ <;>
    rw [hj]
  case inl.inl => rfl
  case inl.inr =>
    have hsel : isSelector tl = false := by
      match tl with
      | [] | _ :: _ :: _ => rfl
      | [k] => simpa [isSelector, isDigit] using hk
    rw [decodeRequest_marker, decodeToken_malformed t hsel]
    rfl
  case inr.inl =>
    rw [decodeRequest_marker]
    obtain rfl := (BitVec.toNat_eq_nat.mp hk).2
    interval_cases n <;> rfl
  case inr.inr =>
    rw [decodeRequest_text t (Bool.eq_false_iff.mpr (mt beginsWithMarker_iff.mp hm)), jobOf_reqText]

/-- One expansion started as two instructions: nothing but OPSEL tells them apart, and that only while they are in
flight. -/
theorem startJob_opsel (i k : Instr) (j : Job) {s : State} (hs : s.busy = false) :
    ∃ t u, startJob i j s = .next t ∧ startJob k j s = .next u ∧
      t = { u with run := { u.run with opsel := t.run.opsel } } ∧ (t.busy = false → t = u) := by
  obtain ⟨t, ht⟩ : ∃ t, startJob i j s = .next t := by
    cases hbody : j.body <;> exact ⟨_, by simp only [startJob, hs, hbody]; rfl⟩
  refine ⟨t, ?_⟩
  obtain ⟨-, ⟨e, he, rfl⟩ | ⟨p, hp, ha, rfl⟩ |
    ⟨pre, m, v, post, hp, hm, ha, ⟨he, rfl⟩ | ⟨he, rfl⟩ | ⟨he, rfl⟩⟩⟩ := startJob_cases i j ht
  · exact ⟨_, ht, startJob_check k j e hs he, rfl, fun _ => rfl⟩
  · exact ⟨_, ht, startJob_ok k j p hs hp ha, rfl, fun _ => rfl⟩
  · exact ⟨_, ht, startJob_busError k j pre post m v hs hp hm ha he, rfl, fun _ => rfl⟩
  · exact ⟨_, ht, startJob_late k j pre post m v hs hp hm ha he, rfl, fun hb => nomatch hb⟩
  · exact ⟨_, ht, startJob_never k j pre post m v hs hp hm ha he, rfl, fun hb => nomatch hb⟩

/-- Settles O30: both start the one expansion (`jobOf_decodeRequest`). -/
theorem requestMatchesItsForm : Obligations.RequestMatchesItsForm := by
  unfold Obligations.RequestMatchesItsForm
  intro s hs
  rw [exec_eq (i := .request) rfl, exec_eq (jobOf_decodeRequest s.run.operands.rb s.run)]
  exact startJob_opsel _ _ _ hs

end Sys2Proof.Machine
end

section
/-! SUPPORT. The statements of 60_exceptions.md about one block: the causes of the results (R222 to R224, R227), the trace of a
failed operation (R231), the block after an operation has ended (R230, R233), the write that is not answered (R246), a step that
starts nothing (R244), and the durations (R239). -/

namespace Sys2Proof.Machine

/-! ## Operations that have ended -/

/-- All the ways an operation can end: rejected by a check, with `Ok`, or at a write that is refused. -/
theorem exec_ended_cases {i : Instr} {s t : State} (h : exec i s = .next t) (hb : t.busy = false) :
    ∃ j, jobOf i s.run = some j ∧
      ((∃ e, j.body = .error e ∧ t = s.afterCheck e) ∨
       (∃ p, j.body = .ok p ∧ t = s.afterOk (eventsOf p) j.count) ∨
       (∃ pre k v post, j.body = .ok (pre ++ k :: post) ∧ k.act = .write v ∧
          t = s.afterBusError (eventsOf pre) v)) := by
  obtain ⟨-, j, hj, hcheck | ⟨p, hp, -, rfl⟩ | ⟨pre, k, v, post, hp, hk, -, ⟨-, rfl⟩ | ⟨-, rfl⟩ | ⟨-, rfl⟩⟩⟩ := exec_cases h
  · exact ⟨j, hj, .inl hcheck⟩
  · exact ⟨j, hj, .inr (.inl ⟨p, hp, rfl⟩)⟩
  · exact ⟨j, hj, .inr (.inr ⟨pre, k, v, post, hp, hk, rfl⟩)⟩
  all_goals cases hb

/-- A result other than `Ok` and `BusError` is the error of a check, which leaves an empty trace (R229). -/
theorem exec_rejected {i : Instr} {s t : State} (h : exec i s = .next t) (hb : t.busy = false) (hok : t.status ≠ .ok)
    (hbus : t.status ≠ .busError) : ∃ j, jobOf i s.run = some j ∧ j.body = .error t.status ∧ t.trace = [] := by
  obtain ⟨j, hj, ⟨e, he, rfl⟩ | ⟨p, -, rfl⟩ | ⟨_, _, _, _, -, -, rfl⟩⟩ := exec_ended_cases h hb
  · exact ⟨j, hj, he, rfl⟩
  · exact absurd rfl hok
  · exact absurd rfl hbus

/-- An operation that ended with `BusError` has made the steps before a write, and that write was refused (R222). -/
theorem trace_of_busError {i : Instr} {s t : State} (h : exec i s = .next t) (hb : t.busy = false)
    (hbus : t.status = .busError) : ∃ pre v, t.trace = eventsOf pre ++ [.wErr v] := by
  obtain ⟨j, hj, ⟨e, he, rfl⟩ | ⟨p, -, rfl⟩ | ⟨pre, _, v, _, -, -, rfl⟩⟩ := exec_ended_cases h hb
  · exact absurd hbus (job_error_ne_busError hj he).1
  · cases hbus
  · exact ⟨pre, v, rfl⟩

/-! ## AddressOutOfRange (R223) -/

/-- Settles O18: only a check gives this result (`exec_rejected`), and GOTOXY's is the only one that does (`job_error`). -/
theorem addressOutOfRangeCause : Obligations.AddressOutOfRangeCause := by
  unfold Obligations.AddressOutOfRangeCause
  intro i s t h hb
  have hrejected (hst : t.status = .addressOutOfRange) := exec_rejected h hb (by simp [hst]) (by simp [hst])
  refine ⟨⟨fun hst => ?cause, ?raised⟩, fun hst => ?trace⟩
  case cause =>
    obtain ⟨j, hj, he, -⟩ := hrejected hst
    obtain ⟨-, hrow⟩ | ⟨hmal, -⟩ := job_error hj he
    · exact hrow
    · cases hst.symm.trans hmal
  case raised =>
    rintro ⟨rfl, hrow⟩
    have hcheck := exec_check (i := .gotoxy) rfl (gotoxyBody_of_rows_le _ _ hrow) (exec_cases h).1
    cases h.symm.trans hcheck
    rfl
  case trace =>
    obtain ⟨_, -, -, htrace⟩ := hrejected hst
    exact htrace

/-! ## MalformedControlToken (R224) -/

/-- A request of length 0, or one whose text is the marker followed by anything but one decimal digit. -/
def MalformedRequest (rb : Bytes) : Prop :=
  rb = [] ∨ ∃ tl t, rb = Config.marker ++ tl ++ [t] ∧ ¬ ∃ k : Byte, tl = [k] ∧ 0x30 ≤ k.toNat ∧ k.toNat ≤ 0x39

/-- A malformed request is rejected. -/
theorem MalformedRequest.requestJob_eq {rb : Bytes} (h : MalformedRequest rb) (cfg : Config) :
    requestJob cfg rb = .rejected .malformedControlToken := by
  obtain ⟨hj, -⟩ | ⟨k, t, n, rfl, hk, hn, -⟩ | ⟨text, t, rfl, hm, -⟩ := requestJob_cases cfg rb
  · exact hj
  · obtain hnil | ⟨tl, t', heq, hnot⟩ := h
    · cases hnil
    · have htl : tl = [k] := (List.append_cancel_left (List.append_inj' heq rfl).1).symm
      exact absurd ⟨k, htl, by omega, by omega⟩ hnot
  · obtain hnil | ⟨tl, t', heq, -⟩ := h
    · simp at hnil
    · exact absurd ⟨tl, (List.append_inj' heq rfl).1⟩ hm

/-- REQUEST is never rejected but for a malformed request. -/
theorem malformedRequest_of_error {cfg : Config} {rb : Bytes} {e : Status} (h : (requestJob cfg rb).body = .error e) :
    MalformedRequest rb := by
  obtain ⟨-, hm⟩ | ⟨k, t, n, -, -, hn, hj⟩ | ⟨text, t, -, -, hj⟩ := requestJob_cases cfg rb
  · exact hm
  · obtain ⟨p, hp⟩ := tokenBody_ok cfg n hn
    rw [hj] at h
    cases hp.symm.trans h
  · rw [hj] at h
    cases h

/-- Settles O28: a malformed request expands to its rejection (`MalformedRequest.requestJob_eq`); whatever is rejected with this error
has an empty trace (`exec_rejected`) and is a request (`job_error`). -/
theorem malformedControlTokenCause : Obligations.MalformedControlTokenCause := by
  unfold Obligations.MalformedControlTokenCause
  refine fun s => ⟨fun hs hm => ?raised, fun i u h hb hst => ?cause⟩
  case raised =>
    exact exec_check (i := .request) rfl (congrArg Job.body (MalformedRequest.requestJob_eq hm s.run.cfg)) hs
  case cause =>
    obtain ⟨j, hj, he, htrace⟩ := exec_rejected h hb (by simp [hst]) (by simp [hst])
    refine ⟨htrace, ?_⟩
    obtain ⟨hrange, -⟩ | ⟨-, rfl | hrow⟩ := job_error hj he
    · cases hst.symm.trans hrange
    · cases hj
      exact .inl ⟨rfl, malformedRequest_of_error he⟩
    · exact .inr hrow

/-! ## BusError (R222) -/

/-- Settles O39: an operation that ended with `BusError` has one refused write, its last event (`trace_of_busError`); a trace
with a refused write tells that its operation ended so (`busError_of_wErr_mem`). -/
theorem busErrorCause : Obligations.BusErrorCause := by
  unfold Obligations.BusErrorCause
  refine fun i s t h => ⟨fun hb => ⟨fun hst => ?refused, fun ⟨_, hv⟩ => (busError_of_wErr_mem h hv).2⟩, fun v hv => ?last⟩
  case refused =>
    obtain ⟨pre, v, ht⟩ := trace_of_busError h hb hst
    exact ⟨v, by simp [ht]⟩
  case last =>
    obtain ⟨hb, hst⟩ := busError_of_wErr_mem h hv
    obtain ⟨pre, u, ht⟩ := trace_of_busError h hb hst
    obtain rfl := wErr_mem_eventsOf_concat (ht ▸ hv)
    exact ⟨hb, eventsOf pre, ht, wErr_not_mem_eventsOf pre⟩

/-! ## The trace of an operation that failed (R231) -/

/-- When every write succeeds, an operation ends with the outcome of its check, or with the events of its whole expansion. -/
theorem exec_allOk {i : Instr} {j : Job} {s u : State} (hs : s.busy = false) (hj : jobOf i s.run = some j)
    (h : exec i (s.withBus []) = .next u) :
    (∀ e, j.body = .error e → u = (s.withBus []).afterCheck e) ∧
    (∀ p, j.body = .ok p → u = (s.withBus []).afterOk (eventsOf p) j.count) := by
  have hj' : jobOf i (s.withBus []).run = some j := (jobOf_bus i [] s.run).trans hj
  have ha (n : Nat) : Answered n (s.withBus []) := by simp [Answered, State.withBus]
  exact ⟨fun e he => Host.Outcome.next.inj (h.symm.trans (exec_check hj' he hs)),
    fun p hp => Host.Outcome.next.inj (h.symm.trans (exec_ok hj' hp hs (ha _)))⟩

/-- The events of some steps, before, at and after a write among them. -/
theorem eventsOf_at_write (pre post : List Slot) {k : Slot} {v : Byte} (hk : k.act = .write v) :
    eventsOf (pre ++ k :: post) = eventsOf pre ++ .w v :: eventsOf post := by
  simp [hk]

/-- Settles O40: in each case of `exec_cases`, against the same expansion run to its end (`exec_allOk`). -/
theorem failedTraceIsPrefix : Obligations.FailedTraceIsPrefix := by
  unfold Obligations.FailedTraceIsPrefix
  intro i s t u h hu
  obtain ⟨hs, j, hj, hc⟩ := exec_cases h
  obtain ⟨hcheck, hok⟩ := exec_allOk hs hj hu
  obtain ⟨e, he, rfl⟩ | ⟨p, hp, -, rfl⟩ | ⟨pre, k, v, post, hp, hk, -, hc⟩ := hc
  · obtain rfl := hcheck e he
    exact ⟨fun _ hst => absurd hst (job_error_ne_busError hj he).1, fun _ _ => ⟨rfl, rfl, rfl⟩, fun hb => nomatch hb⟩
  · obtain rfl := hok p hp
    exact ⟨fun _ hst => (nomatch hst), fun _ _ => ⟨rfl, rfl, rfl⟩, fun hb => nomatch hb⟩
  · have htrace : u.trace = eventsOf pre ++ .w v :: eventsOf post := by
      rw [hok _ hp, ← eventsOf_at_write pre post hk]; rfl
    have hlen : pre.length = (eventsOf pre).length := (eventsOf_length pre).symm
    obtain ⟨-, rfl⟩ | ⟨-, rfl⟩ | ⟨-, rfl⟩ := hc
    · exact ⟨fun _ _ => ⟨eventsOf pre, v, eventsOf post, htrace, rfl⟩, fun _ hne => absurd rfl hne, fun hb => nomatch hb⟩
    all_goals exact ⟨fun hb => (nomatch hb), fun hb => (nomatch hb), fun _ => ⟨v, eventsOf post, htrace, hlen⟩⟩

/-! ## Which operation can end in which result (R227) -/

/-- An operation that can be rejected is GOTOXY or a request. -/
theorem rejected_instr {i : Instr} {s t : State} (h : exec i s = .next t) (hb : t.busy = false) (hok : t.status ≠ .ok)
    (hbus : t.status ≠ .busError) : i = .gotoxy ∨ i = .request ∨ i.format = .Q := by
  obtain ⟨j, hj, he, -⟩ := exec_rejected h hb hok hbus
  obtain ⟨-, rfl, -⟩ | ⟨-, rfl | rfl | ⟨_, _, rfl⟩⟩ := job_error hj he
  exacts [.inl rfl, .inr (.inl rfl), .inr (.inr rfl), .inr (.inr rfl)]

/-- Settles O41: the two errors of the checks by their causes, `BusError` because the empty string makes no write, and the last
clause because none of its operations is one that can be rejected (`rejected_instr`). -/
theorem resultsByOperation : Obligations.ResultsByOperation := by
  unfold Obligations.ResultsByOperation
  intro i s t h hb
  refine ⟨fun hst => ?range, fun hst => ?malformed, ?empty, fun hi => ?rest⟩
  case range => exact ((addressOutOfRangeCause i s t h hb).1.mp hst).1
  case malformed =>
    obtain ⟨-, ⟨rfl, -⟩ | rfl | ⟨_, _, rfl⟩⟩ := (malformedControlTokenCause s).2 i t h hb hst
    exacts [.inl rfl, .inr rfl, .inr rfl]
  case empty =>
    rintro hst ⟨rfl, hstr⟩
    have hdone := (exec_putstr s).2 (exec_cases h).1 (by simp [Answered, hstr])
    cases h.symm.trans hdone
    cases hst
  case rest =>
    by_contra hne
    obtain ⟨hok, hbus⟩ := not_or.mp hne
    obtain rfl | rfl | hf := rejected_instr h hb hok hbus
    · simp at hi
    · simp at hi
    · simp only [List.mem_cons, List.not_mem_nil, or_false] at hi
      obtain rfl | rfl | rfl | rfl | rfl | rfl | rfl | rfl | rfl := hi <;> cases hf

/-! ## After an operation has ended (R230, R233) -/

/-- An idle block takes every start of an operation that has an expansion. -/
theorem exec_next_of_idle {i : Instr} {j : Job} {s : State} (hs : s.busy = false) (hj : jobOf i s.run = some j) :
    ∃ t, exec i s = .next t := by
  obtain ⟨t, -, ht, -⟩ := startJob_opsel i i j hs
  exact ⟨t, (exec_eq hj).trans ht⟩

/-- An operation that has ended leaves no protocol state. -/
theorem idleClean_exec {i : Instr} {s t : State} (h : exec i s = .next t) : IdleClean t := by
  intro hb
  obtain ⟨j, -, ⟨e, -, rfl⟩ | ⟨p, -, rfl⟩ | ⟨_, _, _, _, -, -, rfl⟩⟩ := exec_ended_cases h hb
  all_goals exact ⟨rfl, rfl, rfl, rfl⟩

/-- Settles O42: by `idleClean_exec` and `exec_next_of_idle`. -/
theorem acceptsNextAfterError : Obligations.AcceptsNextAfterError := by
  unfold Obligations.AcceptsNextAfterError
  intro i s t h hb
  obtain ⟨hstep, hidx, hpb, hct⟩ := idleClean_exec h hb
  exact ⟨hstep, hidx, hpb, hct, fun k ⟨j, hj⟩ => exec_next_of_idle hb hj⟩

/-! ## Writes that are not answered (R246) -/

/-- An answer to a later write that is not `ok` is one that is listed. -/
theorem mem_of_headD_drop {l : List BusAnswer} {n : Nat} {a : BusAnswer} (h : (l.drop n).headD .ok = a) (ha : a ≠ .ok) :
    a ∈ l := by
  cases hl : l.drop n with
  | nil => rw [hl] at h; exact absurd h.symm ha
  | cons b bs =>
    rw [hl] at h
    obtain rfl : b = a := h
    exact List.mem_of_mem_drop (i := n) (by simp [hl])

/-- With every write answered an operation ends. -/
theorem exec_ends {i : Instr} {s t : State} (hans : EveryWriteAnswered s) (h : exec i s = .next t) : t.busy = false := by
  obtain ⟨-, j, -, ⟨e, -, rfl⟩ | ⟨p, -, -, rfl⟩ |
    ⟨pre, k, v, post, -, -, -, ⟨-, rfl⟩ | ⟨he, -⟩ | ⟨he, -⟩⟩⟩ := exec_cases h
  · rfl
  · rfl
  · rfl
  · exact absurd (mem_of_headD_drop he (by decide)) hans.1
  · exact absurd (mem_of_headD_drop he (by decide)) hans.2

/-- An operation in flight goes on from the write at which it stands, whose registers are already set. -/
theorem InFlight.resume_eq {s : State} (h : InFlight s) (hb : s.busy = true) :
    ∃ c k v post, k.act = .write v ∧ s.enter k = s ∧ resume s = .next (drive c (k :: post) s) := by
  obtain ⟨j, p, k, v, hj, hbody, hk, hw, hpb, hidx, -, -⟩ := h hb
  obtain ⟨hlt, rfl⟩ := List.getElem?_eq_some_iff.mp hk
  refine ⟨j.count, p[s.stepNo], v, p.drop (s.stepNo + 1), hw, by rw [State.enter, ← hpb, ← hidx], ?_⟩
  exact resume_held (pre := p.take s.stepNo) rfl hj (by simp [hbody]) hw (by simp [Nat.le_of_lt hlt])

/-- Settles O43: with answers to every write by `exec_ends`; a block in flight takes its write up again
(`InFlight.resume_eq`), and that write is still not answered, or is refused. -/
theorem onlyUnansweredWritesHang : Obligations.OnlyUnansweredWritesHang := by
  unfold Obligations.OnlyUnansweredWritesHang
  refine ⟨fun i s t => exec_ends, fun s as hflight hb hhost => ?_⟩
  obtain ⟨c, k, v, post, hk, henter, hresume⟩ := hflight.resume_eq hb
  rw [step_resume hb hhost, hresume]
  refine ⟨fun hbus => ?never, fun hbus => ?refused⟩
  case never => rw [drive_never c post k v s hk (by simp [State.answer, hbus]), henter]
  case refused =>
    rw [drive_busError c post k v s hk (by simp [State.answer, hbus]), henter]
    exact ⟨_, v, rfl, rfl, rfl, rfl⟩

/-! ## A step that starts nothing (R244) -/

/-- A step whose start has its time launches it, whatever its word. -/
theorem step_eq_launch_of_ready {s : State} {st : Start} {rest : List Start} (hh : s.run.host = st :: rest)
    (hr : s.busy = false ∨ st.waits = false) : step s = launch st rest s := by
  have hready : (s.busy && st.waits) = false := by rcases hr with h | h <;> simp [h]
  simp [step, advance, hh, hready]

theorem launch_noSuchWord {st : Start} {why : Reject} (rest : List Start) (s : State)
    (hd : decode st.fmt st.word = .error why) : launch st rest s = .refused (.noSuchWord why) := by
  simp [launch, hd]

/-- Settles O52: by `step_idle`, `step_resume`, and, for a word that does not decode, `launch_noSuchWord`. -/
theorem stepWithoutStart : Obligations.StepWithoutStart := by
  unfold Obligations.StepWithoutStart
  exact fun s => ⟨fun hb hh => step_idle hh hb, step_resume, fun st rest why hh hr hd =>
    (step_eq_launch_of_ready hh hr).trans (launch_noSuchWord rest s hd)⟩

/-! ## Durations (R239) -/

theorem duration_pos (t : WaitClass) : 0 < Config.duration t := by
  cases t <;> exact Nat.succ_pos _

/-- The long delay is the short one and a positive rest. -/
theorem duration_tLong : Config.duration .tLong = Config.duration .tShort + (Config.openTLongExtra + 1) := rfl

/-- Settles O56: by the two lemmas on `duration`. -/
theorem longDelayIsLonger : Obligations.LongDelayIsLonger := by
  unfold Obligations.LongDelayIsLonger
  refine ⟨?_, duration_pos⟩
  rw [duration_tLong]
  omega

end Sys2Proof.Machine
end

section
/-! SUPPORT. The statements of 60_exceptions.md about several displays (R242; 20_memory.md R54, R67): a step of one of them, two
steps in either order, and the invariant of a fleet. -/

namespace Sys2Proof.Machine

/-! ## The frame of a step -/

/-- Running some steps leaves the identity and the configuration alone. -/
theorem drive_frame (c : Option Nat) (p : List Slot) (s : State) :
    (drive c p s).device = s.device ∧ (drive c p s).run.cfg = s.run.cfg := by
  obtain ⟨-, hd⟩ | ⟨pre, k, v, post, -, -, -, ⟨-, hd⟩ | ⟨-, hd⟩ | ⟨-, hd⟩⟩ := drive_cases c p s <;> rw [hd]
  · simp
  · simp [raiseError]
  · simp
  · simp

/-- Going on with an operation, where it can, is running some steps. -/
theorem resume_next {s t : State} (h : resume s = .next t) : ∃ c p, t = drive c p s := by
  unfold resume resumeJob at h
  split at h
  · split at h
    · cases h
    · split at h
      · exact ⟨_, _, (Host.Outcome.next.inj h).symm⟩
      · cases h
  · cases h

/-- So does every step. -/
theorem step_frame {s t : State} (h : step s = .next t) : t.device = s.device ∧ t.run.cfg = s.run.cfg := by
  obtain ⟨-, -, rfl⟩ | ⟨-, h⟩ | ⟨st, rest, i, -, -, -, h⟩ := step_cases h
  · exact ⟨rfl, rfl⟩
  · obtain ⟨c, p, rfl⟩ := resume_next h
    exact drive_frame c p s
  · obtain ⟨hdev, hcfg, -⟩ := exec_frame h
    exact ⟨hdev, hcfg⟩

/-! ## A step of one member -/

/-- The state of a member becomes `t` if it has the ordinal `k`. -/
def Member.put (k : Nat) (t : State) (m : Member) : Member := if m.ordinal = k then { m with state := t } else m

theorem Fleet.put_members (k : Nat) (t : State) (f : Fleet) : (f.put k t).members = f.members.map (Member.put k t) := rfl
@[simp] theorem Fleet.put_lines (k : Nat) (t : State) (f : Fleet) : (f.put k t).lines = f.lines := rfl
@[simp] theorem Fleet.put_orphans (k : Nat) (t : State) (f : Fleet) : (f.put k t).orphans = f.orphans := rfl

@[simp] theorem Member.put_ordinal (k : Nat) (t : State) (m : Member) : (m.put k t).ordinal = m.ordinal := by
  unfold put; split <;> rfl

theorem Member.put_state_same {k : Nat} {m : Member} (h : m.ordinal = k) (t : State) : (m.put k t).state = t := by
  simp [put, h]

theorem Member.put_other {k : Nat} {m : Member} (h : m.ordinal ≠ k) (t : State) : m.put k t = m := if_neg h

@[simp] theorem Fleet.put_ordinals (k : Nat) (t : State) (f : Fleet) :
    (f.put k t).members.map Member.ordinal = f.members.map Member.ordinal := by
  simp [put_members]

/-- The members found under an ordinal are those found before, changed. -/
theorem Fleet.put_state?_eq (k n : Nat) (t : State) (f : Fleet) :
    (f.put k t).state? n = (f.members.find? fun m => m.ordinal == n).map fun m => (m.put k t).state := by
  simp [state?_eq, put_members, List.find?_map, Function.comp_def]

theorem Fleet.put_state?_same {k : Nat} {s : State} {f : Fleet} (h : f.state? k = some s) (t : State) :
    (f.put k t).state? k = some t := by
  obtain ⟨m, hm, -⟩ := Option.map_eq_some_iff.mp h
  have hk : m.ordinal = k := by simpa using List.find?_some hm
  rw [put_state?_eq, hm, Option.map_some, Member.put_state_same hk]

theorem Fleet.put_state?_other {k n : Nat} (h : n ≠ k) (t : State) (f : Fleet) : (f.put k t).state? n = f.state? n := by
  rw [put_state?_eq, state?_eq]
  refine Option.map_congr fun m hm => ?_
  have hn : m.ordinal = n := by simpa using List.find?_some hm
  rw [Member.put_other (hn ▸ h)]

/-- States put under two ordinals do not meet. -/
theorem Fleet.put_comm {k n : Nat} (h : k ≠ n) (s t : State) (f : Fleet) :
    (f.put k s).put n t = (f.put n t).put k s := by
  have hm (m : Member) : (m.put k s).put n t = (m.put n t).put k s := by
    by_cases hk : m.ordinal = k
    · have hn : m.ordinal ≠ n := hk ▸ h
      rw [Member.put_other hn, Member.put_other (m := m.put k s) (by simpa using hn)]
    · rw [Member.put_other hk, Member.put_other (m := m.put n t) (by simpa using hk)]
  simp only [put, Fleet.mk.injEq, List.map_map, and_true, true_and]
  exact List.map_congr_left fun m _ => hm m

/-- All that a step of the member with ordinal `k` can do, if it gives a next fleet. -/
theorem Fleet.stepAt_cases {k : Nat} {f g : Fleet} (h : f.stepAt k = .next g) :
    (f.state? k = none ∧ g = f) ∨ ∃ s t, f.state? k = some s ∧ step s = .next t ∧ g = f.put k t := by
  unfold stepAt at h
  split at h
  · exact .inl ⟨‹_›, (Host.Outcome.next.inj h).symm⟩
  · split at h
    · exact .inr ⟨_, _, ‹_›, ‹_›, (Host.Outcome.next.inj h).symm⟩
    all_goals cases h

theorem Fleet.stepAt_none {k : Nat} {f : Fleet} (h : f.state? k = none) : f.stepAt k = .next f := by
  simp [stepAt, h]

theorem Fleet.stepAt_some {k : Nat} {f : Fleet} {s t : State} (h : f.state? k = some s) (hs : step s = .next t) :
    f.stepAt k = .next (f.put k t) := by
  simp [stepAt, h, hs]

/-- The frame of a step of one member. -/
theorem Fleet.stepAt_frame {k : Nat} {f g : Fleet} (h : f.stepAt k = .next g) :
    (∀ n, n ≠ k → g.state? n = f.state? n) ∧ g.lines = f.lines ∧ g.orphans = f.orphans ∧
    g.members.map Member.ordinal = f.members.map Member.ordinal := by
  obtain ⟨-, rfl⟩ | ⟨s, t, -, -, rfl⟩ := stepAt_cases h
  · exact ⟨fun _ _ => rfl, rfl, rfl, rfl⟩
  · exact ⟨fun _ hn => put_state?_other hn t f, rfl, rfl, put_ordinals k t f⟩

theorem Fleet.stepAt_state?_same {k : Nat} {f g : Fleet} {s : State} (h : f.stepAt k = .next g) (hs : f.state? k = some s) :
    ∃ t, step s = .next t ∧ g.state? k = some t := by
  obtain ⟨hnone, -⟩ | ⟨s', t, hs', ht, rfl⟩ := stepAt_cases h
  · cases hs.symm.trans hnone
  · cases hs.symm.trans hs'
    exact ⟨t, ht, put_state?_same hs t⟩

/-- Steps of two members can be taken in either order. -/
theorem Fleet.stepAt_comm {k n : Nat} {f g h : Fleet} (hkn : k ≠ n) (hg : f.stepAt k = .next g)
    (hh : f.stepAt n = .next h) : ∃ u, g.stepAt n = .next u ∧ h.stepAt k = .next u := by
  have hgn : g.state? n = f.state? n := (stepAt_frame hg).1 n hkn.symm
  have hhk : h.state? k = f.state? k := (stepAt_frame hh).1 k hkn
  obtain ⟨hk, rfl⟩ | ⟨s, s', hs, hs', rfl⟩ := stepAt_cases hg
  · exact ⟨h, hh, stepAt_none (hhk.trans hk)⟩
  · obtain ⟨hn, rfl⟩ | ⟨t, t', ht, ht', rfl⟩ := stepAt_cases hh
    · exact ⟨_, stepAt_none (hgn.trans hn), hg⟩
    · refine ⟨_, stepAt_some (hgn.trans ht) ht', ?_⟩
      rw [put_comm hkn]
      exact stepAt_some (hhk.trans hs) hs'

/-! ## The invariant of a fleet -/

/-- Under the invariant, the member found under an ordinal is the only one that has it. -/
theorem Fleet.Inv.state_eq {f : Fleet} (hf : f.Inv) {m : Member} {s : State} (hm : m ∈ f.members)
    (hs : f.state? m.ordinal = some s) : m.state = s := by
  obtain ⟨m', hm', hord, rfl⟩ := exists_member_of_state? hs
  rw [hf.eq_of_ordinal_eq hm hm' hord.symm]

/-- A new state of a member with its identity and configuration keeps the invariant. -/
theorem Fleet.Inv.put {f : Fleet} (hf : f.Inv) {k : Nat} {s t : State} (hs : f.state? k = some s)
    (hdev : t.device = s.device) (hcfg : t.run.cfg = s.run.cfg) : (f.put k t).Inv := by
  have hkeep : ∀ m ∈ f.members,
      (m.put k t).state.device = m.state.device ∧ (m.put k t).state.run.cfg = m.state.run.cfg := by
    intro m hm
    by_cases hk : m.ordinal = k
    · rw [Member.put_state_same hk, hdev, hcfg, hf.state_eq hm (hk ▸ hs)]
      exact ⟨rfl, rfl⟩
    · rw [Member.put_other hk]
      exact ⟨rfl, rfl⟩
  refine ⟨?table, ?named, ?ordinals, ?buses⟩
  case table =>
    rw [put_members, List.forall_mem_map]
    exact fun m hm => (congrArg Config.lineBase (hkeep m hm).2).trans (hf.table m hm)
  case named =>
    rw [put_members, List.forall_mem_map]
    intro m hm
    rw [(hkeep m hm).1, Member.put_ordinal]
    exact hf.named m hm
  case ordinals =>
    rw [put_ordinals]
    exact hf.ordinals
  case buses =>
    have hbus : (f.members.map (Member.put k t)).map (fun m => m.state.device.bus) =
        f.members.map fun m => m.state.device.bus := by
      rw [List.map_map]
      exact List.map_congr_left fun m hm => congrArg Device.bus (hkeep m hm).1
    rw [put_members, hbus]
    exact hf.buses

theorem Fleet.inv_empty (lines : LineTable) : (Fleet.empty lines).Inv where
  table := fun _ hm => nomatch hm
  named := fun _ hm => nomatch hm
  ordinals := List.nodup_nil
  buses := List.nodup_nil

theorem Fleet.Inv.stepAt {f g : Fleet} (hf : f.Inv) {k : Nat} (h : f.stepAt k = .next g) : g.Inv := by
  obtain ⟨-, rfl⟩ | ⟨s, t, hs, ht, rfl⟩ := stepAt_cases h
  · exact hf
  · exact hf.put hs (step_frame ht).1 (step_frame ht).2

/-- An ordinal and a bus handle that are unused are those of no member. -/
theorem Fleet.unused_iff {k bus : Nat} {f : Fleet} :
    f.unused k bus = true ↔ ∀ m ∈ f.members, m.ordinal ≠ k ∧ m.state.device.bus ≠ bus := by
  simp [unused]

theorem Fleet.Inv.discover {f g : Fleet} (hf : f.Inv) {k bus : Nat} {cfg : Config}
    (h : f.discover k bus cfg = some g) : g.Inv := by
  obtain ⟨hu, rfl⟩ := discover_eq_some h
  rw [unused_iff] at hu
  refine ⟨?table, ?named, ?ordinals, ?buses⟩
  case table =>
    simp only [List.forall_mem_append, List.forall_mem_singleton]
    exact ⟨hf.table, rfl⟩
  case named =>
    simp only [List.forall_mem_append, List.forall_mem_singleton]
    exact ⟨hf.named, rfl⟩
  case ordinals =>
    rw [List.map_append, List.map_singleton, List.nodup_middle, List.append_nil, List.nodup_cons]
    exact ⟨by simpa using fun m hm => (hu m hm).1, hf.ordinals⟩
  case buses =>
    rw [List.map_append, List.map_singleton, List.append_assoc, List.singleton_append, List.nodup_middle,
      List.nodup_cons]
    have hnew : (f.newcomer k bus cfg).device.bus = bus := rfl
    refine ⟨?_, hf.buses.sublist ((List.filter_sublist.map _).append_left _)⟩
    simpa [hnew] using fun m hm => (hu m hm).2

theorem Fleet.Inv.remove {f g : Fleet} (hf : f.Inv) {k : Nat} (h : f.remove k = some g) : g.Inv := by
  obtain ⟨s, hs, rfl⟩ := remove_eq_some h
  have hmem {m : Member} (hm : m ∈ f.members.filter fun m => m.ordinal != k) : m ∈ f.members := List.mem_of_mem_filter hm
  refine ⟨fun m hm => hf.table m (hmem hm), fun m hm => hf.named m (hmem hm), ?ordinals, ?buses⟩
  case ordinals => exact hf.ordinals.sublist (List.filter_sublist.map _)
  case buses =>
    obtain ⟨m, hm, hk, rfl⟩ := exists_member_of_state? hs
    obtain ⟨-, -, hdisjoint⟩ := List.nodup_append.mp hf.buses
    rw [List.map_cons, List.nodup_middle, List.nodup_cons, List.mem_append, not_or]
    refine ⟨⟨?member, ?orphan⟩, hf.buses.sublist ((List.filter_sublist.map _).append_right _)⟩
    case member =>
      simp only [List.mem_map, List.mem_filter, bne_iff_ne, not_exists, not_and, and_imp]
      intro m' hm' hk' hbus
      exact hk' (hf.eq_of_bus_eq hm' hm hbus ▸ hk)
    case orphan => exact fun ho => hdisjoint _ (List.mem_map_of_mem hm) _ ho rfl

/-- Settles O59: the frame of a step (`Fleet.stepAt_frame`), two steps in either order (`Fleet.stepAt_comm`), and the invariant
event by event. -/
theorem instancesAreIndependent : Obligations.InstancesAreIndependent := by
  unfold Obligations.InstancesAreIndependent
  refine ⟨fun f g k h => ?frame, fun _ _ _ _ _ => Fleet.stepAt_comm, Fleet.inv_empty,
    fun _ _ _ _ _ hf => ⟨hf.stepAt, hf.discover, hf.remove⟩⟩
  obtain ⟨hother, hlines, horphans, hordinals⟩ := Fleet.stepAt_frame h
  exact ⟨hother, hlines, horphans, hordinals, fun _ => Fleet.stepAt_state?_same h⟩

end Sys2Proof.Machine
end

section
/-! SUPPORT. The least durations of the operations (70_reset_and_hazards.md R280): the sum of the waits of each expansion. -/

namespace Sys2Proof.Machine

/-! ## The waits of a trace -/

@[simp] theorem leastDuration_nil : leastDuration [] = 0 := rfl
@[simp] theorem leastDuration_w (v : Byte) (es : List Event) : leastDuration (.w v :: es) = leastDuration es := rfl
@[simp] theorem leastDuration_wErr (v : Byte) (es : List Event) : leastDuration (.wErr v :: es) = leastDuration es := rfl
@[simp] theorem leastDuration_d (t : WaitClass) (es : List Event) :
    leastDuration (.d t :: es) = Config.duration t + leastDuration es := rfl

@[simp] theorem leastDuration_append (a b : List Event) : leastDuration (a ++ b) = leastDuration a + leastDuration b := by
  induction a with
  | nil => simp
  | cons e es ih => cases e <;> simp [ih, Nat.add_assoc]

/-- A pulse takes its two settle waits. -/
@[simp] theorem leastDuration_pulseTrace (cfg : Config) (v : Nibble) (rs bl : Bool) :
    leastDuration (pulseTrace cfg v rs bl) = Config.duration .tEH + Config.duration .tEL := by
  simp [pulseTrace]

@[simp] theorem leastDuration_byteTrace (cfg : Config) (b : Byte) (rs bl : Bool) :
    leastDuration (byteTrace cfg b rs bl) = 2 * (Config.duration .tEH + Config.duration .tEL) := by
  simp [byteTrace, Nat.two_mul]

@[simp] theorem leastDuration_sendTrace (cfg : Config) (b : Byte) (rs : Bool) (t : WaitClass) :
    leastDuration (sendTrace cfg b rs t) =
      2 * (Config.duration .tEH + Config.duration .tEL) + Config.duration t := by
  simp [sendTrace]

@[simp] theorem leastDuration_pulseDelayTrace (cfg : Config) (v : Nibble) (t : WaitClass) :
    leastDuration (pulseDelayTrace cfg v t) = Config.duration .tEH + Config.duration .tEL + Config.duration t := by
  simp [pulseDelayTrace]

/-- A string takes as long as its characters. -/
@[simp] theorem leastDuration_stringTrace (cfg : Config) (x : Bytes) :
    leastDuration (stringTrace cfg x) =
      x.length * (2 * (Config.duration .tEH + Config.duration .tEL) + Config.duration .tShort) := by
  induction x with
  | nil => simp [stringTrace]
  | cons c cs ih => rw [stringTrace_cons, leastDuration_append, leastDuration_sendTrace, ih, List.length_cons]; ring

/-- INIT sends four pulses and five bytes, fourteen nibbles in all. -/
@[simp] theorem leastDuration_initTrace (cfg : Config) :
    leastDuration (initTrace cfg) =
      14 * (Config.duration .tEH + Config.duration .tEL) + 3 * Config.duration .tInit + 5 * Config.duration .tShort +
        Config.duration .tLong := by
  simp only [initTrace, leastDuration_append, leastDuration_pulseDelayTrace, leastDuration_sendTrace]
  ring

/-! ## The operations -/

/-- A command or data byte is one SEND, with the long delay after clear and home only. -/
theorem jobOf_command_or_data {i : Instr} {r : Run} (hf : i.format = .C ∨ i.format = .D) :
    ∃ b rs, jobOf i r =
      some (.plain (sendSlots r.cfg 0 b rs (if i = .cmdClear ∨ i = .cmdHome then .tLong else .tShort))) := by
  cases i <;> simp only [Instr.format, reduceCtorEq, or_self] at hf
  all_goals exact ⟨_, _, rfl⟩

section Ended

variable {i : Instr} {s t : State} (h : exec i s = .next t) (hb : t.busy = false) (ho : t.status = .ok)
include h hb ho

/-- An operation that expands to the steps `p` and ended with `Ok` took their time. -/
theorem leastDuration_of_plain {p : List Slot} (hj : jobOf i s.run = some (.plain p)) :
    leastDuration t.trace = leastDuration (eventsOf p) := by
  obtain ⟨j, p', hj', hp, ht⟩ := exec_trace_of_ok h hb ho
  cases hj.symm.trans hj'
  cases hp
  rw [ht]

theorem leastDuration_of_send {cfg : Config} {b : Byte} {rs : Bool} {d : WaitClass}
    (hj : jobOf i s.run = some (.plain (sendSlots cfg 0 b rs d))) :
    leastDuration t.trace = 2 * (Config.duration .tEH + Config.duration .tEL) + Config.duration d := by
  rw [leastDuration_of_plain h hb ho hj, eventsOf_send, leastDuration_sendTrace]

/-- A GOTOXY that ended with `Ok` has passed its check, and past it is one SEND. -/
theorem leastDuration_of_gotoxy (hi : i = .gotoxy) :
    leastDuration t.trace = 2 * (Config.duration .tEH + Config.duration .tEL) + Config.duration .tShort := by
  obtain ⟨j, p, hj, hp, ht⟩ := exec_trace_of_ok h hb ho
  cases hi
  cases hj
  obtain ⟨b, rfl⟩ := gotoxyBody_ok hp
  rw [ht, eventsOf_send, leastDuration_sendTrace]

end Ended

/-- Settles O57: the time of each row is that of its expansion. -/
theorem leastDurations : Obligations.LeastDurations := by
  unfold Obligations.LeastDurations
  intro i s t h hb ho least settle
  have hplain {p : List Slot} (hj : jobOf i s.run = some (.plain p)) : least = leastDuration (eventsOf p) :=
    leastDuration_of_plain h hb ho hj
  have hsend {b : Byte} {rs : Bool} {d : WaitClass} (hj : jobOf i s.run = some (.plain (sendSlots s.run.cfg 0 b rs d))) :
      least = 2 * settle + Config.duration d := leastDuration_of_send h hb ho hj
  refine ⟨?nibble, ?byte, ?short, ?long, ?putstr, ?init, ?words⟩
  case nibble => rintro rfl; rw [hplain rfl, eventsOf_nibble, leastDuration_pulseTrace]
  case byte => rintro rfl; rw [hplain rfl, eventsOf_byte, leastDuration_byteTrace]
  case short =>
    intro hi
    simp only [List.mem_cons, List.not_mem_nil, or_false] at hi
    obtain hi | rfl | rfl | rfl := hi
    · exact leastDuration_of_gotoxy h hb ho hi
    all_goals exact hsend rfl
  case long =>
    intro hi
    simp only [List.mem_cons, List.not_mem_nil, or_false] at hi
    obtain rfl | rfl := hi
    all_goals exact hsend rfl
  case putstr => rintro rfl; rw [hplain rfl, eventsOf_putstr, leastDuration_stringTrace]
  case init => rintro rfl; rw [hplain rfl, eventsOf_init, leastDuration_initTrace]
  case words =>
    intro hf
    obtain ⟨b, rs, hj⟩ := jobOf_command_or_data (r := s.run) hf
    exact hsend hj

end Sys2Proof.Machine
end

section
/-! SUPPORT. Bring-up (70_reset_and_hazards.md R264): an operation run to its end past late answers is that operation with other
answers, and so ends, or waits for ever, as that one does. -/

namespace Sys2Proof.Machine

/-! ## An operation in flight, gone on with -/

/-- An operation held at a write goes on as the operation whose writes up to there succeed, with the answers that come then. -/
theorem resume_heldAt {i : Instr} {j : Job} {pre post : List Slot} {k : Slot} {v : Byte} {s : State}
    {before after : List BusAnswer} (hs : s.busy = false) (hj : jobOf i s.run = some j)
    (hp : j.body = .ok (pre ++ k :: post)) (hk : k.act = .write v) (hn : writeCount pre = before.length)
    (hok : ∀ a ∈ before, a = .ok) :
    resume (s.heldAt i j.ct pre k after) = exec i (s.withBus (before ++ after)) := by
  have ha : Answered (writeCount pre) (State.begin i j.ct (s.withBus (before ++ after))) := by
    simpa [Answered, State.withBus, hn] using hok
  rw [resume_held rfl ((jobOf_congr i rfl rfl).trans hj) hp hk rfl,
    exec_eq (s := s.withBus _) ((jobOf_bus i _ s.run).trans hj), heldAt_eq_enter hn, drive_enter, ← drive_append _ _ _ _ ha]
  simp [startJob, State.withBus, hs, hp]

/-- An answer that is not `ok` stands in the list, behind those before it. -/
theorem bus_eq_of_headD_drop {l : List BusAnswer} {n : Nat} {a : BusAnswer} (h : (l.drop n).headD .ok = a) (ha : a ≠ .ok) :
    n = (l.take n).length ∧ l = l.take n ++ a :: l.drop (n + 1) := by
  have hn : n < l.length := by
    by_contra hn
    rw [List.drop_of_length_le (by omega)] at h
    exact ha h.symm
  rw [List.drop_eq_getElem_cons hn, List.headD_cons] at h
  subst h
  simp [hn.le]

/-- An operation is in flight at a write whose answer is late, and goes on as with that answer left out, or at one that is never
answered, and going on changes nothing. -/
theorem exec_inFlight {i : Instr} {s t : State} (h : exec i s = .next t) (hb : t.busy = true) :
    (∃ before after, s.run.bus = before ++ .late :: after ∧ resume t = exec i (s.withBus (before ++ after))) ∨
    (.never ∈ s.run.bus ∧ resume t = .next t) := by
  obtain ⟨hs, j, hj, ⟨_, -, rfl⟩ | ⟨_, -, -, rfl⟩ |
    ⟨pre, k, v, post, hp, hk, ha, ⟨-, rfl⟩ | ⟨he, rfl⟩ | ⟨he, rfl⟩⟩⟩ := exec_cases h
  case inr.inr.inr.inl =>
    obtain ⟨hn, hbus⟩ := bus_eq_of_headD_drop he (by decide)
    exact .inl ⟨_, _, hbus, resume_heldAt hs hj hp hk hn ha⟩
  case inr.inr.inr.inr =>
    have hn := (bus_eq_of_headD_drop he (by decide)).1
    refine .inr ⟨mem_of_headD_drop he (by decide), ?_⟩
    rw [resume_heldAt hs hj hp hk hn ha, List.take_append_drop]
    exact h
  all_goals cases hb

/-! ## Running to the end -/

/-- A write that is never answered holds an operation however often it goes on. -/
theorem runToEnd_stuck {t : State} (h : resume t = .next t) (n : Nat) : runToEnd n t = .next t := by
  induction n with
  | zero => rfl
  | succ n ih =>
    unfold runToEnd
    split
    · rw [h]; exact ih
    · rfl

theorem runToEnd_resume {t : State} (hb : t.busy = true) {u : State} (h : resume t = .next u) (n : Nat) :
    runToEnd (n + 1) t = runToEnd n u := by
  simp [runToEnd, hb, h]

/-- `u` is what operation `i`, started in `s`, comes to with some of the answers listed left out; it is still in flight only at a
write that is never answered. -/
structure RunsTo (i : Instr) (s u : State) : Prop where
  exec_withBus : ∃ bus, bus.Sublist s.run.bus ∧ exec i (s.withBus bus) = .next u
  never_mem : u.busy = true → .never ∈ s.run.bus

theorem RunsTo.of_exec {i : Instr} {s u : State} (h : exec i s = .next u) (hn : u.busy = true → .never ∈ s.run.bus) :
    RunsTo i s u := ⟨⟨s.run.bus, List.Sublist.refl _, h⟩, hn⟩

theorem RunsTo.of_withBus {i : Instr} {s u : State} {bus : List BusAnswer} (hbus : bus.Sublist s.run.bus)
    (h : RunsTo i (s.withBus bus) u) : RunsTo i s u := by
  obtain ⟨⟨bus', hsub, hexec⟩, hnever⟩ := h
  exact ⟨⟨bus', hsub.trans hbus, hexec⟩, fun hb => hbus.subset (hnever hb)⟩

/-- Going on as often as answers come late is enough. -/
theorem runToEnd_exec {i : Instr} {n : Nat} {s t : State} (h : exec i s = .next t) (hn : s.run.bus.count .late ≤ n) :
    ∃ u, runToEnd n t = .next u ∧ RunsTo i s u := by
  induction n generalizing s t with
  | zero =>
    refine ⟨t, rfl, .of_exec h fun hb => ?_⟩
    obtain ⟨before, after, hbus, -⟩ | ⟨hnever, -⟩ := exec_inFlight h hb
    · simp [hbus] at hn
    · exact hnever
  | succ n ih =>
    cases hb : t.busy with
    | false => exact ⟨t, runToEnd_idle _ hb, .of_exec h fun hb' => by simp [hb] at hb'⟩
    | true =>
      obtain ⟨before, after, hbus, hres⟩ | ⟨hnever, hres⟩ := exec_inFlight h hb
      · obtain ⟨j, hj, -⟩ := exec_next_job h
        obtain ⟨t', ht'⟩ := exec_next_of_idle (i := i) (s := s.withBus (before ++ after)) (exec_cases h).1
          ((jobOf_bus i _ s.run).trans hj)
        have hn' : (before ++ after).count .late ≤ n := by simp [hbus] at hn ⊢; omega
        obtain ⟨u, hu, hrun⟩ := ih ht' hn'
        refine ⟨u, (runToEnd_resume hb (hres.trans ht') n).trans hu, hrun.of_withBus ?_⟩
        rw [hbus]
        exact (List.sublist_cons_self ..).append_left before
      · exact ⟨t, runToEnd_stuck hres _, .of_exec h fun _ => hnever⟩

/-- Answers that are `ok` are not late. -/
theorem Answered.count_late_le {n : Nat} {s : State} (h : Answered n s) :
    s.run.bus.count .late ≤ (s.run.bus.drop n).length := by
  have htake : (s.run.bus.take n).count .late = 0 := List.count_eq_zero.mpr fun hm => nomatch h _ hm
  rw [← List.take_append_drop n s.run.bus, List.count_append, htake, Nat.zero_add, List.take_append_drop]
  exact List.count_le_length

/-- An operation has used at most one answer that is late. -/
theorem exec_count_late_le {i : Instr} {s t : State} (h : exec i s = .next t) :
    s.run.bus.count .late ≤ t.run.bus.length + 1 := by
  obtain ⟨-, j, -, ⟨e, -, rfl⟩ | ⟨p, -, ha, rfl⟩ |
    ⟨pre, k, v, post, -, -, ha, ⟨-, rfl⟩ | ⟨-, rfl⟩ | ⟨-, rfl⟩⟩⟩ := exec_cases h
  · exact Nat.le_succ_of_le List.count_le_length
  · exact Nat.le_succ_of_le ha.count_late_le
  all_goals
    have := ha.count_late_le
    simp only [State.afterBusError, State.heldAt, List.length_drop, writeCount] at this ⊢
    omega

/-- An idle block takes the call of an operation that has an expansion, and runs it to its end. -/
theorem exists_call {i : Instr} {j : Job} {s : State} (hs : s.busy = false) (hj : jobOf i s.run = some j) :
    ∃ u, call i s = .next u ∧ RunsTo i s u := by
  obtain ⟨t, ht⟩ := exec_next_of_idle hs hj
  simp only [call, ht]
  exact runToEnd_exec ht (exec_count_late_le ht)

/-! ## What an operation run to its end leaves -/

section RunToEnd

variable {i : Instr} {s u : State} {p : List Slot} (h : RunsTo i s u)
include h

theorem RunsTo.cfg_eq : u.run.cfg = s.run.cfg := by
  obtain ⟨bus, -, hexec⟩ := h.exec_withBus
  exact (exec_frame hexec).2.1

theorem RunsTo.bus_subset : u.run.bus ⊆ s.run.bus := by
  obtain ⟨bus, hsub, hexec⟩ := h.exec_withBus
  obtain ⟨-, -, -, -, ⟨n, hn⟩, -⟩ := exec_frame hexec
  exact hn ▸ fun _ hm => hsub.subset (List.mem_of_mem_drop hm)

/-- One that ended with `Ok` has added its whole trace to the history. -/
theorem RunsTo.history_eq (hj : jobOf i s.run = some (.plain p)) (hb : u.busy = false) (ho : u.status = .ok) :
    u.history = s.history ++ eventsOf p := by
  obtain ⟨bus, -, hexec⟩ := h.exec_withBus
  obtain ⟨j, p', hj', hp, ht⟩ := exec_trace_of_ok hexec hb ho
  cases ((jobOf_bus i bus s.run).trans hj).symm.trans hj'
  cases hp
  obtain ⟨-, -, -, hpast, -⟩ := exec_frame hexec
  rw [State.history, hpast, ht]
  rfl

/-- Where no answer is never, one that makes no check ends with `Ok` or `BusError`. -/
theorem RunsTo.ends (hj : jobOf i s.run = some (.plain p)) (hn : .never ∉ s.run.bus) :
    u.busy = false ∧ (u.status = .ok ∨ u.status = .busError) := by
  obtain ⟨bus, -, hexec⟩ := h.exec_withBus
  have hb : u.busy = false := Bool.eq_false_of_not_eq_true fun hb => hn (h.never_mem hb)
  exact ⟨hb, okOrBusError_of_body (s := s.withBus bus) ((jobOf_bus i bus s.run).trans hj) rfl u hexec hb⟩

end RunToEnd

/-! ## Bring-up -/

theorem bringUp_of_failure {s t : State} (h : call .init s = .next t) (ht : t.busy = true ∨ t.status ≠ .ok) :
    bringUp s = .next t := by
  simp [bringUp, h, ht]

theorem bringUp_of_ok {s t : State} (h : call .init s = .next t) (hb : t.busy = false) (ho : t.status = .ok) :
    bringUp s = call .putstr (t.presentString Config.banner) := by
  simp [bringUp, h, hb, ho]

theorem jobOf_putstr_presentString (x : Bytes) (s : State) :
    jobOf .putstr (s.presentString x).run = some (.plain (putstrSlots s.run.cfg 0 x)) := rfl

/-- All that bring-up can do from an idle block: INIT runs to its end, and if that is `Ok`, the banner does. -/
theorem bringUp_cases {s : State} (hs : s.busy = false) :
    ∃ t, RunsTo .init s t ∧
      (((t.busy = true ∨ t.status ≠ .ok) ∧ bringUp s = .next t) ∨
        (t.busy = false ∧ t.status = .ok ∧
          ∃ u, RunsTo .putstr (t.presentString Config.banner) u ∧ bringUp s = .next u)) := by
  obtain ⟨t, ht, hrun⟩ := exists_call (i := .init) hs rfl
  refine ⟨t, hrun, ?_⟩
  by_cases hfail : t.busy = true ∨ t.status ≠ .ok
  · exact .inl ⟨hfail, bringUp_of_failure ht hfail⟩
  · simp only [not_or, Bool.not_eq_true, not_not] at hfail
    obtain ⟨hb, ho⟩ := hfail
    obtain ⟨u, hu, hrun'⟩ := exists_call (s := t.presentString Config.banner) hb (jobOf_putstr_presentString ..)
    exact .inr ⟨hb, ho, u, hrun', (bringUp_of_ok ht hb ho).trans hu⟩

/-- After the first `m` answers have been used the next `n` are still `ok`. -/
theorem Answered.of_drop {m n : Nat} {s t : State} (h : Answered (m + n) s) (hbus : t.run.bus = s.run.bus.drop m) :
    Answered n t := by
  intro a ha
  rw [hbus, List.take_drop] at ha
  exact h a (List.mem_of_mem_drop ha)

/-- Every write answered `ok`: INIT and the banner end at once. -/
theorem bringUp_answered {s : State} (hs : s.busy = false) (ha : Answered (28 + 4 * Config.banner.length) s) :
    bringUp s = .next ((s.afterOk (initTrace s.run.cfg) none).afterOk (stringTrace s.run.cfg Config.banner) none) := by
  obtain ⟨hinit, -, hwrites⟩ := (initCompletes s).2 hs (ha.mono (Nat.le_add_right ..))
  refine bringUp_delivered hinit rfl rfl (exec_putstr_presentString _ rfl (ha.of_drop ?_)) rfl
  rw [← hwrites]
  rfl

/-- Settles O60: in each case of `bringUp_cases` both operations are looked at by what running to its end leaves (`RunsTo`); with
every write answered `ok` they end at once. -/
theorem bringUpSequence : Obligations.BringUpSequence := by
  unfold Obligations.BringUpSequence
  intro s hs
  have hhistory : ∀ t, bringUp s = .next t → t.busy = false → t.status = .ok →
      t.history = s.history ++ initTrace s.run.cfg ++ stringTrace s.run.cfg Config.banner := by
    intro u hu hb ho
    obtain ⟨t, hinit, ⟨hfail, ht⟩ | ⟨hbt, hot, u', hbanner, hu'⟩⟩ := bringUp_cases hs
    · cases ht.symm.trans hu
      simp [hb, ho] at hfail
    · cases hu'.symm.trans hu
      have h1 := hinit.history_eq rfl hbt hot
      have h2 := hbanner.history_eq (jobOf_putstr_presentString ..) hb ho
      rw [eventsOf_init] at h1
      rw [eventsOf_putstr, hinit.cfg_eq] at h2
      rw [h2, ← h1]
      rfl
  refine ⟨fun ha => ⟨_, bringUp_answered hs ha, rfl, rfl, rfl⟩, hhistory, fun t ht _ ho => bringUp_of_failure ht (.inr ho),
    fun t => call_delivered, fun hn => ?_⟩
  obtain ⟨t, hinit, ⟨hfail, ht⟩ | ⟨hb, ho, u, hbanner, hu⟩⟩ := bringUp_cases hs
  · exact ⟨t, ht, hinit.ends rfl hn⟩
  · exact ⟨u, hu, hbanner.ends (jobOf_putstr_presentString ..) fun hm => hn (hinit.bus_subset hm)⟩

end Sys2Proof.Machine
end
